-- ==== Sys2Proof/Word.lean ====
section
/-! DEFINITION. The bit-vector types of the block: only what the spec treats as bits (a command word, register
contents, encoded fields) is a bit vector. Bits are numbered from 0 at the least significant end and every quantity is
unsigned (R10, R11). Durations are natural numbers that never wrap (R12, R14), so they are plain `Nat`. -/

namespace Sys2Proof

/-- One 8-bit cell: a radio register value (`W_REG`), a pin id (`W_PIN`), `REPEATS` (`W_REP`), `RDELAY` (`W_DLY`) (R9). -/
abbrev Byte := BitVec 8

/-- The `PERIOD` register, `W_PERIOD = 16` bits (R9, R21). -/
abbrev Period := BitVec 16

/-- One command word `CW[63:0]` of the command port (R90). -/
abbrev CommandWord := BitVec 64

/-- The `FRAME` register (R31). -/
abbrev Frame := BitVec 32

/-- The `DIM` register (R32). -/
abbrev DimLevel := BitVec 4

end Sys2Proof
end

