-- ==== Sys2Proof/Syntax.lean ====
section
/-! DEFINITION. The commands the host can give, one constructor per row of `spec/opcode_table.json` (R96). Operands have
exactly the widths of the command word's fields (R92 to R95), so every term of `Instr` can be encoded; the fields are
wider than their legal ranges on purpose (R94). The micro-operations (PULSE_*, GUARD_*) cannot be issued by the host
and have no encoding, so they are no instructions. -/

namespace Sys2Proof

/-- The five commands of R96. -/
inductive Instr where
  /-- SETPIN, format P (R92, R215). -/
  | setPin (pin : Byte)
  /-- SETTIMING, format T (R93, R220). -/
  | setTiming (period : Period) (repeats : Byte) (rdelay : Byte)
  /-- SENDNEW, format N (R94, R150). -/
  | sendNew (addr : BitVec 32) (unit : Byte) (on : Bool) (group : Bool) (dim : Byte)
  /-- SENDOLD, format H (R95, R170); `house` is a character code. -/
  | sendOld (house : Byte) (unit : Byte) (on : Bool)
  /-- SENDCOGEX, format H (R95, R185); `house` is a number. -/
  | sendCogex (house : Byte) (unit : Byte) (on : Bool)
  deriving DecidableEq, Repr

end Sys2Proof
end

