-- ==== Sys2Proof/Decode.lean ====
section
/-! DEFINITION. Decoding an accepted command word, in the order of R97 (opcode, reserved bits, fields), total on every
64-bit word and rejecting by name; after it the encoder, written from the field tables R92 to R95, and the match and
mask rows of R97. The word is presented whole on the command port, so it has no byte order (R67, N12). -/

namespace Sys2Proof

/-- Why a word is no command (R120, R121); either raises `IllegalCommand` (R272). -/
inductive DecodeError where
  /-- The opcode is not one of the five of R96. -/
  | unassignedOpcode
  /-- The opcode is assigned and a reserved bit of its format is set. -/
  | reservedBitSet
  deriving DecidableEq, Repr

/-- The field `w[lo + len - 1 : lo]` of a command word (R10). -/
def field (w : CommandWord) (lo len : Nat) : BitVec len := w.extractLsb' lo len

/-- The opcode `CW[63:56]` (R91). -/
def opcodeOf (w : CommandWord) : Byte := field w 56 8

/-- Step 2 of R97: the reserved field `w[lo + len - 1 : lo]` must be zero, else the word is rejected. -/
def checkReserved (w : CommandWord) (lo len : Nat) (i : Instr) : Except DecodeError Instr :=
  if field w lo len = 0#len then .ok i else .error .reservedBitSet

/-- Step 3 of R97 for format P (R92). -/
def decodeSetPin (w : CommandWord) : Except DecodeError Instr :=
  checkReserved w 8 48 (.setPin (field w 0 8))

/-- Step 3 of R97 for format T (R93). -/
def decodeSetTiming (w : CommandWord) : Except DecodeError Instr :=
  checkReserved w 32 24 (.setTiming (field w 16 16) (field w 8 8) (field w 0 8))

/-- Step 3 of R97 for format N (R94). -/
def decodeSendNew (w : CommandWord) : Except DecodeError Instr :=
  checkReserved w 50 6 (.sendNew (field w 0 32) (field w 32 8) (w.getLsbD 48) (w.getLsbD 49) (field w 40 8))

/-- Step 3 of R97 for format H with opcode SENDOLD (R95). -/
def decodeSendOld (w : CommandWord) : Except DecodeError Instr :=
  checkReserved w 17 39 (.sendOld (field w 0 8) (field w 8 8) (w.getLsbD 16))

/-- Step 3 of R97 for format H with opcode SENDCOGEX (R95). -/
def decodeSendCogex (w : CommandWord) : Except DecodeError Instr :=
  checkReserved w 17 39 (.sendCogex (field w 0 8) (field w 8 8) (w.getLsbD 16))

/-- The opcode map of R96, and with it the whole decoder (R97). -/
def decode (w : CommandWord) : Except DecodeError Instr :=
  if opcodeOf w = 0x01#8 then decodeSetPin w
  else if opcodeOf w = 0x02#8 then decodeSetTiming w
  else if opcodeOf w = 0x10#8 then decodeSendNew w
  else if opcodeOf w = 0x11#8 then decodeSendOld w
  else if opcodeOf w = 0x12#8 then decodeSendCogex w
  else .error .unassignedOpcode

/-- A field value placed with its least significant bit at bit `lo` of a command word (R10). -/
def place {n : Nat} (v : BitVec n) (lo : Nat) : CommandWord := v.setWidth 64 <<< lo

/-- The command word of a command: the fields of R92 to R95 in their places, reserved bits zero. -/
def encode : Instr → CommandWord
  | .setPin pin => place 0x01#8 56 ||| place pin 0
  | .setTiming period repeats rdelay => place 0x02#8 56 ||| place period 16 ||| place repeats 8 ||| place rdelay 0
  | .sendNew addr unit on group dim =>
    place 0x10#8 56 ||| place (BitVec.ofBool group) 49 ||| place (BitVec.ofBool on) 48 ||| place dim 40 |||
      place unit 32 ||| place addr 0
  | .sendOld house unit on => place 0x11#8 56 ||| place (BitVec.ofBool on) 16 ||| place unit 8 ||| place house 0
  | .sendCogex house unit on => place 0x12#8 56 ||| place (BitVec.ofBool on) 16 ||| place unit 8 ||| place house 0

/-- One row of the table of R97. -/
structure OpcodeRow where
  mnemonic : String
  pattern : CommandWord
  mask : CommandWord
  deriving DecidableEq, Repr

/-- The match and mask table of R97 (and of `spec/opcode_table.json`). -/
def opcodeTable : List OpcodeRow := [
  ⟨"SETPIN",    0x0100000000000000#64, 0xFFFFFFFFFFFFFF00#64⟩,
  ⟨"SETTIMING", 0x0200000000000000#64, 0xFFFFFFFF00000000#64⟩,
  ⟨"SENDNEW",   0x1000000000000000#64, 0xFFFC000000000000#64⟩,
  ⟨"SENDOLD",   0x1100000000000000#64, 0xFFFFFFFFFFFE0000#64⟩,
  ⟨"SENDCOGEX", 0x1200000000000000#64, 0xFFFFFFFFFFFE0000#64⟩]

/-- A word belongs to a row exactly when `w & mask = match` (R97). -/
def OpcodeRow.covers (r : OpcodeRow) (w : CommandWord) : Bool := w &&& r.mask == r.pattern

/-- The mnemonic of a command (R96). -/
def Instr.mnemonic : Instr → String
  | .setPin _ => "SETPIN"
  | .setTiming _ _ _ => "SETTIMING"
  | .sendNew _ _ _ _ _ => "SENDNEW"
  | .sendOld _ _ _ => "SENDOLD"
  | .sendCogex _ _ _ => "SENDCOGEX"

/-- The word whose low `nbits` bits are those of `w`, the bits above being zero. -/
def tableWord (nbits w : Nat) : CommandWord := BitVec.ofNat 64 (w % 2 ^ nbits)

/-- What the decoder reads from a word numbered as `spec/opcode_table.json` numbers it (bit 0 least significant). -/
def decodeTableWord (nbits w : Nat) : Option Instr := (decode (tableWord nbits w)).toOption

end Sys2Proof
end

