-- ==== Sys2Proof/Config.lean ====
section
/-! DEFINITION. What an implementation of the block fixes (R7 to R9 and `93_implementation_defined.md` Part 2) and the
free values. The eleven OPEN parameters are one record, `Config.Platform`; a machine state carries the record of its
platform and no step changes it, so that a statement about every state is a statement about every platform (log 1).
The record of the machine that `State.reset` starts is an opaque constant: nothing in Lean can learn a value of it. -/

namespace Sys2Proof

/-- The three protocol families (R1). It is also the type of the `PROTO` register, whose fourth code is never written
(R33, U11). -/
inductive Proto where
  | new
  | old
  | cogex
  deriving DecidableEq, Repr, Inhabited

namespace Config

/-- `CORRECTION_US`, the fixed instruction-overhead compensation in microseconds (R7). -/
def correctionUs : Nat := 150

/-- `CHAR_A`, the number that stands for the letter `'A'` (R9, R108; decision D25, general knowledge G1 of the spec). -/
def charA : Byte := 65

/-- The OPEN parameters of a platform (R9, `93_implementation_defined.md` Part 2). Each constraint the spec puts on a
parameter is met by the way it is stored, so every record is a platform the spec allows (log 2). -/
structure Platform where
  /-- `NPINS - 1`, so that `1 <= NPINS <= 256` (D18). -/
  lastPin : Byte
  /-- `ADDR_OPMODE` (D13). -/
  addrOpMode : Nat
  /-- `ADDR_MODUL`, counted among the addresses other than `ADDR_OPMODE` (D13; R74: the two differ). -/
  addrModulAmongOthers : Nat
  /-- `VAL_TX` (D13). -/
  valTx : Byte
  /-- `VAL_OOK_CONT_NOSYNC` (D13). -/
  valOokContNosync : Byte
  /-- Bits 10..8 of `OLD_FIXED`; its other bits are zero (R107, D31). -/
  oldFixedBits : BitVec 3
  /-- Bits 10..9 of `COGEX_FIXED`; its other bits are zero (R110, D31). -/
  cogexFixedBits : BitVec 2
  /-- `RESET_PIN` (D16). -/
  resetPin : Byte
  /-- `RESET_PERIOD_US` (D16). -/
  resetPeriodUs : Period
  /-- `RESET_REPEATS` (D16). -/
  resetRepeats : Byte
  /-- `RESET_DELAY_MS` (D16). -/
  resetDelayMs : Byte
  deriving DecidableEq, Repr, Inhabited

/-- `NPINS`, the number of pads the multiplexer reaches (R9, R75). -/
def Platform.nPins (P : Platform) : Nat := P.lastPin.toNat + 1

/-- `ADDR_MODUL` (R74): any address but `ADDR_OPMODE`. -/
def Platform.addrModul (P : Platform) : Nat :=
  if P.addrModulAmongOthers < P.addrOpMode then P.addrModulAmongOthers else P.addrModulAmongOthers + 1

/-- `OLD_FIXED`, 12 bits (R107). -/
def Platform.oldFixed (P : Platform) : BitVec 12 := P.oldFixedBits.setWidth 12 <<< 8

/-- `COGEX_FIXED`, 12 bits (R110). -/
def Platform.cogexFixed (P : Platform) : BitVec 12 := P.cogexFixedBits.setWidth 12 <<< 9

/-- The platform of the machine that `State.reset` starts: the spec leaves all of it OPEN (log 1). -/
opaque platform : Platform

/-- What the transceiver driver left in the operating-mode register before system start: a free input (R61; log 5). -/
opaque radioOpModeAtStart : Byte

/-- What the transceiver driver left in the modulation-type register before system start: a free input (R61; log 5). -/
opaque radioModulAtStart : Byte

/-- The `n`-th unconstrained content of `FRAME` outside a send (R37, U9; log 4). -/
opaque freeFrame : Nat → Frame

/-- The `n`-th unconstrained content of `DIM` outside a send (R37, U9; log 4). -/
opaque freeDim : Nat → DimLevel

/-- The `n`-th unconstrained content of `PROTO` outside a send (R37, U9; log 4). -/
opaque freeProto : Nat → Proto

/-- The `n`-th unconstrained content of `SAVED_OPMODE` outside a send (R37, U9; log 4). -/
opaque freeSavedOpMode : Nat → Byte

/-- The `n`-th unconstrained content of `SAVED_MODUL` outside a send (R37, U9; log 4). -/
opaque freeSavedModul : Nat → Byte

/-- The `n`-th unconstrained content of `REP_CNT` outside a send (R37, U9; log 4). -/
opaque freeRepCnt : Nat → Byte

/-- The `n`-th unconstrained content of `BIT_IDX` outside a send (R37, U9; log 4). -/
opaque freeBitIdx : Nat → BitVec 5

end Config
end Sys2Proof
end

