-- ==== Sys2Proof/Machine/State.lean ====
section
/-! DEFINITION. The state of the machine: every register the spec gives the block (`10_state.md`), the radio's two cells
(R61), and the model's own fields around them: the trace the block has emitted (R15, R50), the moves of the outside
world still to come, the platform's parameters and the counter of free values. All of it is plain data. -/

namespace Sys2Proof.Machine

/-- A level on a pad (R45): 0 = LOW, 1 = HIGH. -/
inductive Level where
  | low
  | high
  deriving DecidableEq, Repr

/-- A pad's direction (R45): 0 = IN, not driven; 1 = OUT, driven. -/
inductive Dir where
  | input
  | output
  deriving DecidableEq, Repr

/-- One pad of the multiplexer: `PAD_DIR[p]` and `PAD_LVL[p]` (R45). -/
structure Pad where
  dir : Dir
  lvl : Level
  deriving DecidableEq, Repr

/-- What every pad holds at reset: an input at level 0 (R51). -/
abbrev Pad.atReset : Pad := ⟨.input, .low⟩

/-- The pad space (R60, R75): the pads that do not hold their reset contents, by rising pin id. -/
abbrev PadSpace := List (Nat × Pad)

/-- The two logical registers of the radio that the block uses (R60, R61). -/
inductive RadioReg where
  /-- The operating-mode register. -/
  | opMode
  /-- The modulation-type register. -/
  | modul
  deriving DecidableEq, Repr

/-- The two cells `RADIO[ADDR_OPMODE]` and `RADIO[ADDR_MODUL]` (R61). -/
structure Radio where
  opMode : Byte
  modul : Byte
  deriving DecidableEq, Repr

/-- The events of the output trace (R15). Pads and radio registers are shown by number, as the spec writes them. -/
inductive Event where
  /-- `RegRead(addr) = v` (R62). -/
  | regRead (addr : Nat) (v : Byte)
  /-- `RegWrite(addr, v)` (R63). -/
  | regWrite (addr : Nat) (v : Byte)
  /-- `PinMode(p, OUT)` (R64). -/
  | pinMode (p : Nat)
  /-- `PinWrite(p, l)` (R65). -/
  | pinWrite (p : Nat) (l : Level)
  /-- `DelayUs(n)` (R286). -/
  | delayUs (n : Nat)
  /-- `DelayMs(n)` (R287). -/
  | delayMs (n : Nat)
  deriving DecidableEq, Repr

/-- The fourteen values of the sequencer position `SEQ` (R38, R236). The spec gives them no binary codes (N9). -/
inductive Seq where
  | idle
  | saveOpMode
  | saveModul
  | setModul
  | setOpMode
  | repTest
  | start
  | bits
  | dimBits
  | stop
  | gap
  | restOpMode
  | restModul
  | done
  deriving DecidableEq, Repr

/-- The values of `CAUSE` (R265); the codes 6 to 15 are never written (U11). -/
inductive Cause where
  /-- Code 0: the command was performed. -/
  | noFault
  /-- Code 1: `ValidationError(ADDRESS)`. -/
  | address
  /-- Code 2: `ValidationError(UNIT)`. -/
  | unit
  /-- Code 3: `ValidationError(DIM)`. -/
  | dim
  /-- Code 4: `IllegalCommand`. -/
  | illegal
  /-- Code 5: `TimingFault`. -/
  | timing
  deriving DecidableEq, Repr

/-- The working registers of the datapath and the sequencer's two counters (R30 to R40). Outside a send they hold
unconstrained values (R37, U9). -/
structure Working where
  /-- `FRAME` (R31). -/
  frame : Frame
  /-- `DIM` (R32). -/
  dim : DimLevel
  /-- `PROTO` (R33). -/
  proto : Proto
  /-- `SAVED_OPMODE` (R35). -/
  savedOpMode : Byte
  /-- `SAVED_MODUL` (R36). -/
  savedModul : Byte
  /-- `REP_CNT` (R39). -/
  repCnt : Byte
  /-- `BIT_IDX` (R40). -/
  bitIdx : BitVec 5
  deriving DecidableEq, Repr

/-- What the outside world does to the block. A move is taken only while the command port is open, that is between
sends; until then it waits outside and the block does not see it (R90, R302, R313, U2, U4, U6; logs 6 to 8). -/
inductive Input where
  /-- The host offers a command word (R90). -/
  | word (w : CommandWord)
  /-- System start (R300). -/
  | reset
  /-- The transceiver driver writes one of its registers between sends (U6). -/
  | driverWrite (r : RadioReg) (v : Byte)
  deriving DecidableEq, Repr

structure State where
  /-- `PIN` (R22). -/
  pin : Byte
  /-- `PERIOD` (R21). -/
  period : Period
  /-- `REPEATS` (R23). -/
  repeats : Byte
  /-- `RDELAY` (R24). -/
  rdelay : Byte
  /-- `BUSY`, `STATUS[0]` (R27, R41). -/
  busy : Bool
  /-- `ERR`, `STATUS[1]` (R27, R42). -/
  err : Bool
  /-- `CAUSE`, `STATUS[7:4]` (R27, R42). -/
  cause : Cause
  /-- `SEQ` (R38). -/
  seq : Seq
  /-- `FRAME`, `DIM`, `PROTO`, `SAVED_OPMODE`, `SAVED_MODUL`, `REP_CNT`, `BIT_IDX` (R30). -/
  work : Working
  /-- `PAD_DIR` and `PAD_LVL` (R45). -/
  pads : PadSpace
  /-- The radio's two registers, which belong to the transceiver (R50, R61). -/
  radio : Radio
  /-- The model's own: the events emitted so far, oldest first (R15, R16, R50). -/
  trace : List Event
  /-- The model's own: the outside world's moves still to come, oldest first (log 6). -/
  inputs : List Input
  /-- The model's own: the OPEN parameters of this platform, which no step changes (R9, R50; log 1). -/
  platform : Config.Platform
  /-- The model's own: how many times free values were drawn (log 4). -/
  freeDraws : Nat
  deriving DecidableEq, Repr

/-- Why the machine stops with a fault. Neither can happen in a state that a run from reset reaches. -/
inductive Fault where
  /-- Raised by the sequencer in a state in which no row of R237 names an operation: an OLD or COGEX `BIT_IDX` above 11,
  a `DIM` index above 3, or `REP_CNT = 0` at the inter-repeat delay (R39, R246). Unreachable. Safe. -/
  | sequencerStuck
  /-- Raised by a Pulse Primitive when `PERIOD <= CORRECTION_US`, where the hold `PERIOD - CORRECTION_US` is not computed
  in any arithmetic (R12, U3). Unreachable: a send is accepted only with a larger period. Safe. -/
  | holdUnderflow
  deriving DecidableEq, Repr

/-- Why the machine gives an operation no meaning. -/
inductive Refusal where
  /-- Raised by `exec` for an instruction that has no meaning yet. Safe. -/
  | notModelled (mnemonic : String)
  /-- Raised by SETPIN with `pin >= NPINS` and by a send or a pad operation while `PIN >= NPINS`: undefined in the spec,
  which asks that a model refuse it (R218, U1). Safe. -/
  | invalidPin
  deriving DecidableEq, Repr

/-- What an operation answers. -/
abbrev Result := Host.Outcome State Fault Refusal

/-- The `n`-th unconstrained content of the working registers (R37, U9; log 4). -/
def freeWorking (n : Nat) : Working where
  frame := Config.freeFrame n
  dim := Config.freeDim n
  proto := Config.freeProto n
  savedOpMode := Config.freeSavedOpMode n
  savedModul := Config.freeSavedModul n
  repCnt := Config.freeRepCnt n
  bitIdx := Config.freeBitIdx n

/-- The state after system start on a platform, with what the transceiver driver left in the radio (R51, R301). -/
def State.resetOn (P : Config.Platform) (radio : Radio) : State where
  pin := P.resetPin
  period := P.resetPeriodUs
  repeats := P.resetRepeats
  rdelay := P.resetDelayMs
  busy := false
  err := false
  cause := .noFault
  seq := .idle
  work := freeWorking 0
  pads := []
  radio := radio
  trace := []
  inputs := []
  platform := P
  freeDraws := 1

/-- The machine right after reset (R51): the platform and the radio's contents are the OPEN ones (logs 1, 3, 5). -/
def State.reset : State :=
  State.resetOn Config.platform ⟨Config.radioOpModeAtStart, Config.radioModulAtStart⟩

end Sys2Proof.Machine
end

