-- ==== Sys2Proof/Machine/Flags.lean ====
section
/-! DEFINITION. The status register and the validation of send commands: which cause a command raises (R151, R171, R186,
R265 to R273) and how `STATUS` shows it (R27). There are no condition codes (R43). -/

namespace Sys2Proof.Machine

/-- The cause codes (R265). -/
def Cause.code : Cause → BitVec 4
  | .noFault => 0
  | .address => 1
  | .unit => 2
  | .dim => 3
  | .illegal => 4
  | .timing => 5

/-- The code of `PROTO` (R33). -/
def protoCode : Proto → BitVec 2
  | .new => 0
  | .old => 1
  | .cogex => 2

/-- `STATUS` as the host reads it: `CAUSE` in bits 7..4, bits 3..2 zero, `ERR` in bit 1, `BUSY` in bit 0 (R27). -/
def State.status (s : State) : Byte :=
  (s.cause.code.setWidth 8 <<< 4) ||| ((BitVec.ofBool s.err).setWidth 8 <<< 1) ||| (BitVec.ofBool s.busy).setWidth 8

/-- The field checks of SENDNEW: address, unit unless `group`, dim as given; the first failure is reported (R151). -/
def newFieldFault (addr : BitVec 32) (unit : Byte) (group : Bool) (dim : Byte) : Option Cause :=
  if 2 ^ 26 ≤ addr.toNat then some .address
  else if group = false ∧ 15 < unit.toNat then some .unit
  else if 15 < dim.toNat then some .dim
  else none

/-- The field checks of SENDOLD: the letter is in `CHAR_A .. CHAR_A + 15`, the unit in 1..16 (R171). -/
def oldFieldFault (house unit : Byte) : Option Cause :=
  if house.toNat < Config.charA.toNat ∨ Config.charA.toNat + 15 < house.toNat then some .address
  else if unit.toNat < 1 ∨ 16 < unit.toNat then some .unit
  else none

/-- The field checks of SENDCOGEX: the house number and the unit are in 1..15 (R186). -/
def cogexFieldFault (house unit : Byte) : Option Cause :=
  if house.toNat < 1 ∨ 15 < house.toNat then some .address
  else if unit.toNat < 1 ∨ 15 < unit.toNat then some .unit
  else none

/-- The cause a send raises, if any: the failing field first, then `PERIOD <= CORRECTION_US` (R270, R273). -/
def sendFault (fields : Option Cause) (s : State) : Option Cause :=
  match fields with
  | some c => some c
  | none => if s.period.toNat ≤ Config.correctionUs then some .timing else none

end Sys2Proof.Machine
end

