-- ==== Sys2Proof/Machine/Ops.lean ====
section
/-! DEFINITION. The named operations every meaning is written over: the two address spaces (`20_memory.md`), the delays,
taking a fault, and the acceptance of a send. An operation on a collaborator appends exactly one event (R15). -/

namespace Sys2Proof.Machine

/-- Do `f` in the state an operation leaves, unless it stopped. -/
def andThen (r : Result) (f : State → Result) : Result :=
  match r with
  | .next s => f s
  | .fault e => .fault e
  | .refused e => .refused e

/-- Append events to the trace (R15). -/
def State.emit (s : State) (es : List Event) : State := { s with trace := s.trace ++ es }

/-- Move the sequencer (R235). -/
def State.goto (s : State) (q : Seq) : State := { s with seq := q }

/-- `BIT_IDX <- i` (R40). -/
def State.setBitIdx (s : State) (i : BitVec 5) : State := { s with work.bitIdx := i }

/-- `REP_CNT <- n` (R39). -/
def State.setRepCnt (s : State) (n : Byte) : State := { s with work.repCnt := n }

/-! ## The pad space (R60, R64, R65, R75) -/

/-- The contents of pad `p`. -/
def PadSpace.read : PadSpace → Nat → Pad
  | [], _ => Pad.atReset
  | (q, x) :: m, p => if q = p then x else PadSpace.read m p

/-- The pad space without an entry for pad `p`, which then reads as at reset. -/
def PadSpace.forget (m : PadSpace) (p : Nat) : PadSpace := m.filter fun e => e.1 ≠ p

/-- The pad space with an entry for pad `p`, which it does not list, put in its place. -/
def PadSpace.insert (p : Nat) (x : Pad) : PadSpace → PadSpace
  | [] => [(p, x)]
  | (q, y) :: m => if p < q then (p, x) :: (q, y) :: m else (q, y) :: PadSpace.insert p x m

/-- The pad space with `x` in pad `p`; a pad that gets its reset contents back is no longer listed. -/
def PadSpace.write (m : PadSpace) (p : Nat) (x : Pad) : PadSpace :=
  if x = Pad.atReset then PadSpace.forget m p else PadSpace.insert p x (PadSpace.forget m p)

/-- The canonical form: pin ids strictly rise and no listed pad holds its reset contents. -/
abbrev PadSpace.wf (m : PadSpace) : Prop :=
  m.Pairwise (fun a b => a.1 < b.1) ∧ ∀ e ∈ m, e.2 ≠ Pad.atReset

/-- `PAD_DIR[p]` and `PAD_LVL[p]` (R45). -/
def State.pad (s : State) (p : Nat) : Pad := PadSpace.read s.pads p

/-- The level the block drives on the wire of pad `p`, if it drives it (R47). -/
def State.wire (s : State) (p : Nat) : Option Level :=
  match (s.pad p).dir with
  | .output => some (s.pad p).lvl
  | .input => none

/-- Give pad `PIN` new contents: the multiplexer reaches no other pad (R48, R224). -/
def State.setPad (s : State) (x : Pad) : State := { s with pads := PadSpace.write s.pads s.pin.toNat x }

/-- `PIN` names a pad (R22, R75). -/
def State.pinValid (s : State) : Bool := s.pin.toNat < s.platform.nPins

/-- `PinMode(PIN)`: defined for `PIN < NPINS`; sets the direction and nothing else (R46, R64). -/
def pinMode (s : State) : Result :=
  if s.pinValid then
    .next ((s.setPad { s.pad s.pin.toNat with dir := .output }).emit [.pinMode s.pin.toNat])
  else .refused .invalidPin

/-- `PinWrite(PIN, l)`: defined for `PIN < NPINS`; sets the level and nothing else, whatever the direction
(R46, R65). -/
def pinWrite (l : Level) (s : State) : Result :=
  if s.pinValid then
    .next ((s.setPad { s.pad s.pin.toNat with lvl := l }).emit [.pinWrite s.pin.toNat l])
  else .refused .invalidPin

/-! ## The radio register space (R61 to R63, R74) -/

/-- The address of a radio register on a platform (R74). -/
def radioAddr (P : Config.Platform) : RadioReg → Nat
  | .opMode => P.addrOpMode
  | .modul => P.addrModul

/-- The value of a radio register: that of the most recent write (R61). -/
def Radio.get (m : Radio) : RadioReg → Byte
  | .opMode => m.opMode
  | .modul => m.modul

/-- The radio with a register's whole value replaced (R63). -/
def Radio.set (m : Radio) (r : RadioReg) (v : Byte) : Radio :=
  match r with
  | .opMode => { m with opMode := v }
  | .modul => { m with modul := v }

/-- The result of `RegRead` (R62). -/
def regValue (r : RadioReg) (s : State) : Byte := s.radio.get r

/-- `RegRead`: appends its event and changes nothing (R62). -/
def regRead (r : RadioReg) (s : State) : State := s.emit [.regRead (radioAddr s.platform r) (regValue r s)]

/-- `RegWrite` (R63). -/
def regWrite (r : RadioReg) (v : Byte) (s : State) : State :=
  State.emit { s with radio := s.radio.set r v } [.regWrite (radioAddr s.platform r) v]

/-! ## Delays (R286, R287) -/

/-- `DelayUs(n)`: changes no state (R286). -/
def delayUs (n : Nat) (s : State) : State := s.emit [.delayUs n]

/-- `DelayMs(n)`: changes no state, and is an event of the trace even for `n = 0` (R287). -/
def delayMs (n : Nat) (s : State) : State := s.emit [.delayMs n]

/-- The requested length of an event in microseconds: `n` for `DelayUs(n)` (R286), the nominal `1000 * n` for
`DelayMs(n)` (R287); no other event asks for time (R322). -/
def nominalUs : Event → Nat
  | .delayUs n => n
  | .delayMs n => 1000 * n
  | .regRead _ _ | .regWrite _ _ | .pinMode _ | .pinWrite _ _ => 0

/-! ## The outcome of a command -/

/-- `raise E(cause)`: the fault is reported in `STATUS` and nothing else changes. There is no handler, no vector and
nothing to return from (R271, R275). -/
def raise (c : Cause) (s : State) : State := { s with err := true, cause := c }

/-- A command that is performed clears the report (R42). -/
def performed (s : State) : State := { s with err := false, cause := .noFault }

/-- Row 1 of R237: a send that passes validation writes its Frame, sets `BUSY` and starts the sequencer. -/
def acceptSend (p : Proto) (frame : Frame) (dim : DimLevel) (s : State) : State :=
  { performed s with
    busy := true, seq := .saveOpMode, work.proto := p, work.frame := frame, work.dim := dim }

/-- The acceptance of a send command: refused while `PIN` names no pad (R218, U1); else its validation raises the first
fault (R273), or the send begins (R237 row 1). -/
def beginSend (p : Proto) (fields : Option Cause) (frame : Frame) (dim : DimLevel) (s : State) : Result :=
  if s.pinValid then
    .next (match sendFault fields s with
      | some c => raise c s
      | none => acceptSend p frame dim s)
  else .refused .invalidPin

/-- The end of a send, row 22 of R237: `BUSY` falls, and the working registers hold no value any more (R37, U9). -/
def endSend (s : State) : State :=
  { s with busy := false, seq := .idle, work := freeWorking s.freeDraws, freeDraws := s.freeDraws + 1 }

/-- System start while the block is idle (R300, R301): every register of the block gets its reset value; the radio, the
trace and the outside world are untouched. -/
def systemStart (s : State) : State :=
  { State.resetOn s.platform s.radio with
    work := freeWorking s.freeDraws, freeDraws := s.freeDraws + 1, trace := s.trace, inputs := s.inputs }

end Sys2Proof.Machine
end

