-- ==== Sys2Proof/Machine/ConfigCommands.lean ====
section
/-! DEFINITION. The configuration commands SETPIN and SETTIMING (`45_config_pinmux.md`). -/

namespace Sys2Proof.Machine

/-- SETPIN (R215): the register is reassigned, then the pad becomes an output, then it is driven LOW (R216); the pad it
leaves keeps its contents (R217). A pin id that names no pad is refused (R218, U1). -/
def execSetPin (pin : Byte) (s : State) : Result :=
  andThen (pinMode { s with pin := pin }) fun s₁ =>
  andThen (pinWrite .low s₁) fun s₂ =>
  .next (performed s₂)

/-- SETTIMING (R220): the three timing registers are replaced together (R221), unchecked (R222). -/
def execSetTiming (period : Period) (repeats rdelay : Byte) (s : State) : Result :=
  .next (performed { s with period := period, repeats := repeats, rdelay := rdelay })

end Sys2Proof.Machine
end

