-- ==== Sys2Proof/Machine/Operands.lean ====
section
/-! DEFINITION. The operand forms: the Frames that the send commands pack their fields into (R100 to R110) and the
symbol alphabets that Frame bits and markers become (R113 to R117). -/

namespace Sys2Proof.Machine

/-- The 6-bit NEW unit field `U` (R101). -/
def newUnitField (unit : Byte) (group : Bool) : BitVec 6 :=
  if group then 0x20#6 else if unit = 0 then 0#6 else (unit - 1).setWidth 6

/-- The NEW Frame (R100). -/
def newFrame (addr : BitVec 32) (unit : Byte) (on group : Bool) : Frame :=
  (addr <<< 6) ||| (newUnitField unit group).setWidth 32 ||| (if on then 0x10#32 else 0#32)

/-- The effective dim level of a NEW command: zero when `on` is false (R103). -/
def newDim (on : Bool) (dim : Byte) : DimLevel := if on then dim.setWidth 4 else 0#4

/-- The OLD Frame, 12 bits in `FRAME[11:0]` (R106). -/
def oldFrame (P : Config.Platform) (house unit : Byte) (on : Bool) : Frame :=
  P.oldFixed.setWidth 32 ||| ((unit - 1).setWidth 32 <<< 4) ||| (house - Config.charA).setWidth 32 |||
    (if on then 0x800#32 else 0#32)

/-- The COGEX Frame, 12 bits in `FRAME[11:0]` (R109). -/
def cogexFrame (P : Config.Platform) (house unit : Byte) (on : Bool) : Frame :=
  P.cogexFixed.setWidth 32 ||| (unit.setWidth 32 <<< 5) ||| (house.setWidth 32 <<< 1) |||
    (if on then 0x801#32 else 0#32)

/-- The NEW symbol alphabet (R113). -/
inductive NewSymbol where
  | start
  | bit (b : Bool)
  | dimmer
  | stop
  deriving DecidableEq, Repr

/-- The OLD symbol alphabet (R114), which is the COGEX alphabet too (R115). -/
inductive ShortSymbol where
  | start
  | bit (b : Bool)
  deriving DecidableEq, Repr

/-- The durations `(d1, d2)` of a NEW symbol for the period `T` (R8, R113). -/
def newDurations (T : Nat) : NewSymbol → Nat × Nat
  | .start => (0, 10 * T)
  | .bit true => (5 * T, 1 * T)
  | .bit false => (1 * T, 5 * T)
  | .dimmer => (1 * T, 1 * T)
  | .stop => (0, 10 * T)

/-- The durations `(d1, d2)` of an OLD symbol for the period `T` (R8, R114). -/
def oldDurations (T : Nat) : ShortSymbol → Nat × Nat
  | .start => (0, 3 * T)
  | .bit true => (3 * T, 1 * T)
  | .bit false => (1 * T, 3 * T)

/-- The durations `(d1, d2)` of a COGEX symbol for the period `T` (R8, R115). -/
def cogexDurations (T : Nat) : ShortSymbol → Nat × Nat
  | .start => (0, 3 * T)
  | .bit true => (3 * T, 1 * T)
  | .bit false => (1 * T, 3 * T)

/-- The symbols of the bits `v[lo + n - 1], …, v[lo]`, most significant first (R68). -/
def msbFirst {w : Nat} (v : BitVec w) (lo n : Nat) : List NewSymbol :=
  (List.range n).reverse.map fun i => .bit (v.getLsbD (lo + i))

/-- One NEW datagram as a string of symbols, 34 of them or, with a dim level, 38 (R105, R156). -/
def newDatagram (frame : Frame) (dim : DimLevel) : List NewSymbol :=
  [.start] ++ msbFirst frame 5 27 ++
    (if dim ≠ 0 then [.dimmer] ++ msbFirst frame 0 4 ++ msbFirst dim 0 4 else msbFirst frame 0 5) ++ [.stop]

/-- One OLD or COGEX datagram as a string of 13 symbols, least significant Frame bit first (R117, R175, R190). -/
def shortDatagram (frame : Frame) : List ShortSymbol :=
  [.start] ++ (List.range 12).map fun i => .bit (frame.getLsbD i)

end Sys2Proof.Machine
end

