-- ==== Sys2Proof/Machine/SendCommands.lean ====
section
/-! DEFINITION. The three send commands, as the command port accepts them: validation, frame construction and row 1 of
R237. The rest of a send's effect is what the sequencer then does, one row a step (`Sequencer.lean`, R237); the same
effect as one whole is `BigStep.lean`. -/

namespace Sys2Proof.Machine

/-- SENDNEW (R150; validation R151, Frame R100, dim level R103). -/
def execSendNew (addr : BitVec 32) (unit : Byte) (on group : Bool) (dim : Byte) (s : State) : Result :=
  beginSend .new (newFieldFault addr unit group dim) (newFrame addr unit on group) (newDim on dim) s

/-- SENDOLD (R170; validation R171, Frame R106); `DIM` is written to zero. -/
def execSendOld (house unit : Byte) (on : Bool) (s : State) : Result :=
  beginSend .old (oldFieldFault house unit) (oldFrame s.platform house unit on) 0 s

/-- SENDCOGEX (R185; validation R186, Frame R109); `DIM` is written to zero. -/
def execSendCogex (house unit : Byte) (on : Bool) (s : State) : Result :=
  beginSend .cogex (cogexFieldFault house unit) (cogexFrame s.platform house unit on) 0 s

end Sys2Proof.Machine
end

