-- ==== Sys2Proof/Machine/Dispatch.lean ====
section
/-! DEFINITION. One arm per command: what an accepted command does (R96). -/

namespace Sys2Proof.Machine

def exec (i : Instr) (s : State) : Host.Outcome State Fault Refusal :=
  match i with
  | .setPin pin => Sys2Proof.Machine.execSetPin pin s
  | .setTiming period repeats rdelay => Sys2Proof.Machine.execSetTiming period repeats rdelay s
  | .sendNew addr unit on group dim => Sys2Proof.Machine.execSendNew addr unit on group dim s
  | .sendOld house unit on => Sys2Proof.Machine.execSendOld house unit on s
  | .sendCogex house unit on => Sys2Proof.Machine.execSendCogex house unit on s

end Sys2Proof.Machine
end

