-- ==== Sys2Proof/Machine/Guard.lean ====
section
/-! DEFINITION. The Transceiver Mode Guard (`44_mode_guard.md`), one register transaction a step: rows 2 to 5, 20 and 21
of R237. -/

namespace Sys2Proof.Machine

/-- Row 2: `SAVED_OPMODE <- RegRead(ADDR_OPMODE)` (R201). -/
def guardSaveOpMode (s : State) : State :=
  State.goto { regRead .opMode s with work.savedOpMode := regValue .opMode s } .saveModul

/-- Row 3: `SAVED_MODUL <- RegRead(ADDR_MODUL)` (R201). -/
def guardSaveModul (s : State) : State :=
  State.goto { regRead .modul s with work.savedModul := regValue .modul s } .setModul

/-- Row 4: `RegWrite(ADDR_MODUL, VAL_OOK_CONT_NOSYNC)` (R202). -/
def guardSetModul (s : State) : State := (regWrite .modul s.platform.valOokContNosync s).goto .setOpMode

/-- Row 5: `RegWrite(ADDR_OPMODE, VAL_TX)`, then `REP_CNT` is loaded from `REPEATS` (R202, R240). -/
def guardSetOpMode (s : State) : State :=
  ((regWrite .opMode s.platform.valTx s).setRepCnt s.repeats).goto .repTest

/-- Row 20: `RegWrite(ADDR_OPMODE, SAVED_OPMODE)` (R203). -/
def guardRestoreOpMode (s : State) : State := (regWrite .opMode s.work.savedOpMode s).goto .restModul

/-- Row 21: `RegWrite(ADDR_MODUL, SAVED_MODUL)` (R203). -/
def guardRestoreModul (s : State) : State := (regWrite .modul s.work.savedModul s).goto .done

end Sys2Proof.Machine
end

