-- ==== Sys2Proof/Machine/Pulse.lean ====
section
/-! DEFINITION. The Pulse Primitive and its three variants (`40_pulse_primitive.md`), and the bits of the three
protocols. The variants are one sequence of operations and stay three operations, as the source asks (R134). -/

namespace Sys2Proof.Machine

/-- One HIGH and LOW pair: HIGH for `PERIOD - CORRECTION_US`, LOW for `d + CORRECTION_US` (R130, R131). -/
def pulsePhase (d : Nat) (s : State) : Result :=
  andThen (pinWrite .high s) fun s₁ =>
  andThen (pinWrite .low (delayUs (s₁.period.toNat - Config.correctionUs) s₁)) fun s₂ =>
  .next (delayUs (d + Config.correctionUs) s₂)

/-- The common contract (R130). With `d1 = 0` the whole first phase is left out (R132). The hold
`PERIOD - CORRECTION_US` is never computed when it would underflow (R12, U3). -/
def pulse (d1 d2 : Nat) (s : State) : Result :=
  if s.period.toNat ≤ Config.correctionUs then .fault .holdUnderflow
  else if d1 = 0 then pulsePhase d2 s
  else andThen (pulsePhase d1 s) (pulsePhase d2)

/-- PULSE_NEW (R139). -/
def pulseNew (d : Nat × Nat) (s : State) : Result := pulse d.1 d.2 s

/-- PULSE_OLD (R140). -/
def pulseOld (d : Nat × Nat) (s : State) : Result := pulse d.1 d.2 s

/-- PULSE_COGEX (R141). -/
def pulseCogex (d : Nat × Nat) (s : State) : Result := pulse d.1 d.2 s

/-- One NEW symbol on the pin (R113, R155). -/
def emitNew (y : NewSymbol) (s : State) : Result := pulseNew (newDurations s.period.toNat y) s

/-- One OLD symbol on the pin (R114, R174). -/
def emitOld (y : ShortSymbol) (s : State) : Result := pulseOld (oldDurations s.period.toNat y) s

/-- One COGEX symbol on the pin (R115, R189). -/
def emitCogex (y : ShortSymbol) (s : State) : Result := pulseCogex (cogexDurations s.period.toNat y) s

end Sys2Proof.Machine
end

