-- ==== Sys2Proof/Machine/Sequencer.lean ====
section
/-! DEFINITION. The bit-packing sequencer: the rows of R237 from row 2 on, one definition per position. Row 1 is the
acceptance of a send (`Ops.lean`, `beginSend`). -/

namespace Sys2Proof.Machine

/-- Rows 6 and 7: the repeat test, made before every datagram (R240). -/
def atRepTest (s : State) : State := if s.work.repCnt ≠ 0 then s.goto .start else s.goto .restOpMode

/-- Rows 8 and 9: the start marker; `BIT_IDX` points at the first bit to send (R241). -/
def atStart (s : State) : Result :=
  match s.work.proto with
  | .new => andThen (emitNew .start s) fun t => .next ((t.setBitIdx 31).goto .bits)
  | .old => andThen (emitOld .start s) fun t => .next ((t.setBitIdx 0).goto .bits)
  | .cogex => andThen (emitCogex .start s) fun t => .next ((t.setBitIdx 0).goto .bits)

/-- `FRAME[BIT_IDX]`, read at the step that sends it (R243). -/
def frameBit (s : State) : Bool := s.work.frame.getLsbD s.work.bitIdx.toNat

/-- Rows 10 to 13: the NEW payload, `FRAME[31]` first (R242). -/
def atBitsNew (s : State) : Result :=
  if s.work.bitIdx = 4 ∧ s.work.dim ≠ 0 then
    andThen (emitNew .dimmer s) fun t => .next ((t.setBitIdx 3).goto .bits)
  else if s.work.bitIdx ≠ 0 then
    andThen (emitNew (.bit (frameBit s)) s) fun t => .next ((t.setBitIdx (s.work.bitIdx - 1)).goto .bits)
  else if s.work.dim = 0 then
    andThen (emitNew (.bit (frameBit s)) s) fun t => .next (t.goto .stop)
  else
    andThen (emitNew (.bit (frameBit s)) s) fun t => .next ((t.setBitIdx 3).goto .dimBits)

/-- Rows 14 and 15: the OLD and COGEX payload, `FRAME[0]` first and `FRAME[11]` last (R244). An index above 11 has no
row. -/
def atBitsShort (emitSymbol : ShortSymbol → State → Result) (s : State) : Result :=
  if s.work.bitIdx.toNat < 11 then
    andThen (emitSymbol (.bit (frameBit s)) s) fun t => .next ((t.setBitIdx (s.work.bitIdx + 1)).goto .bits)
  else if s.work.bitIdx.toNat = 11 then
    andThen (emitSymbol (.bit (frameBit s)) s) fun t => .next (t.goto .gap)
  else .fault .sequencerStuck

/-- Rows 10 to 15: one Frame bit, or the dimmer indicator, by `PROTO`. -/
def atBits (s : State) : Result :=
  match s.work.proto with
  | .new => atBitsNew s
  | .old => atBitsShort emitOld s
  | .cogex => atBitsShort emitCogex s

/-- Rows 16 and 17: the dim-level bits, `DIM[3]` first (R245). An index above 3 names no bit of `DIM`. -/
def atDimBits (s : State) : Result :=
  if 3 < s.work.bitIdx.toNat then .fault .sequencerStuck
  else
    andThen (emitNew (.bit (s.work.dim.getLsbD s.work.bitIdx.toNat)) s) fun t =>
      if s.work.bitIdx ≠ 0 then .next ((t.setBitIdx (s.work.bitIdx - 1)).goto .dimBits) else .next (t.goto .stop)

/-- Row 18: the NEW stop marker (R247). -/
def atStop (s : State) : Result := andThen (emitNew .stop s) fun t => .next (t.goto .gap)

/-- Row 19: the inter-repeat delay, then the datagram is counted (R248); `REP_CNT` is decremented only when it is not
zero (R39). -/
def atGap (s : State) : Result :=
  if s.work.repCnt = 0 then .fault .sequencerStuck
  else .next (((delayMs s.rdelay.toNat s).setRepCnt (s.work.repCnt - 1)).goto .repTest)

/-- The firing of the one enabled row of a send (R235, R250). In `IDLE` there is none but the acceptance of a command. -/
def fireRow (s : State) : Result :=
  match s.seq with
  | .idle => .next s
  | .saveOpMode => .next (guardSaveOpMode s)
  | .saveModul => .next (guardSaveModul s)
  | .setModul => .next (guardSetModul s)
  | .setOpMode => .next (guardSetOpMode s)
  | .repTest => .next (atRepTest s)
  | .start => atStart s
  | .bits => atBits s
  | .dimBits => atDimBits s
  | .stop => atStop s
  | .gap => atGap s
  | .restOpMode => .next (guardRestoreOpMode s)
  | .restModul => .next (guardRestoreModul s)
  | .done => .next (endSend s)

end Sys2Proof.Machine
end

