-- ==== Sys2Proof/Machine/Port.lean ====
section
/-! DEFINITION. The command port and the other moves of the outside world, which land only between sends (R41, R90,
R302, U2, U4, U6). -/

namespace Sys2Proof.Machine

/-- The command port is open: the block waits in `IDLE` and is not busy (R90, R238). -/
def portOpen (s : State) : Bool := s.seq == .idle && !s.busy

/-- An accepted word is decoded and performed, or raises `IllegalCommand` (R97, R120, R121). -/
def acceptWord (w : CommandWord) (s : State) : Result :=
  match decode w with
  | .ok i => exec i s
  | .error _ => .next (raise .illegal s)

/-- The next move of the outside world, taken while the port is open; without one the block waits in `IDLE` (R236). -/
def takeInput (s : State) : Result :=
  match s.inputs with
  | [] => .next s
  | .word w :: rest => acceptWord w { s with inputs := rest }
  | .reset :: rest => .next (systemStart { s with inputs := rest })
  | .driverWrite r v :: rest => .next { s with inputs := rest, radio := s.radio.set r v }

/-- What a step does: it takes a move of the outside world while the port is open, and otherwise fires the sequencer's
row without looking at the port (R41, R238). -/
def stepOnce (s : State) : Result := if portOpen s then takeInput s else fireRow s

/-- The state in which the very next step accepts the word `w`: the port open and the word offered first. -/
def offerNext (w : CommandWord) (s : State) : State :=
  { s with seq := .idle, busy := false, inputs := .word w :: s.inputs }

end Sys2Proof.Machine
end

