-- ==== Sys2Proof/Machine/Step.lean ====
section
/-! DEFINITION. One step of the machine (R235, R238), and how a test puts a command word where the next step takes it. -/

namespace Sys2Proof.Machine

/-- One step: a command or another move of the outside world is taken, or one row of R237 fires. -/
def step (s : State) : Host.Outcome State Fault Refusal := stepOnce s

/-- The state whose very next step accepts the command word whose low `nbits` bits are those of `w`. -/
def State.withFetchWord (s : State) (nbits w : Nat) : State := offerNext (tableWord nbits w) s

end Sys2Proof.Machine
end

