-- ==== Sys2Proof/Machine/BigStep.lean ====
section
/-! DEFINITION. The commands as whole programs, the spec's normative description (`41_send_new.md` to
`43_send_cogex.md`): the trace and the end state of a send in one piece. `step` realises them row by row; that the two
agree is R254, and is stated as an obligation. -/

namespace Sys2Proof.Machine

/-- The events of one HIGH and LOW pair on pad `p` (R130). -/
def phaseEvents (p T d : Nat) : List Event :=
  [.pinWrite p .high, .delayUs (T - Config.correctionUs), .pinWrite p .low, .delayUs (d + Config.correctionUs)]

/-- The events of one Pulse Primitive call on pad `p` (R130, R132). -/
def pulseEvents (p T : Nat) (d : Nat × Nat) : List Event :=
  (if d.1 = 0 then [] else phaseEvents p T d.1) ++ phaseEvents p T d.2

/-- The state a Pulse Primitive call leaves: its events are in the trace and pad `PIN` is LOW; nothing else changes
(R135, R136). -/
def State.pulsed (d : Nat × Nat) (s : State) : State :=
  (s.setPad { s.pad s.pin.toNat with lvl := .low }).emit (pulseEvents s.pin.toNat s.period.toNat d)

/-- The events of `DG_NEW(FRAME, DIM)` (R156). -/
def newDatagramEvents (p T : Nat) (frame : Frame) (dim : DimLevel) : List Event :=
  (newDatagram frame dim).flatMap fun y => pulseEvents p T (newDurations T y)

/-- The events of `DG_OLD(FRAME)` (R175). -/
def oldDatagramEvents (p T : Nat) (frame : Frame) : List Event :=
  (shortDatagram frame).flatMap fun y => pulseEvents p T (oldDurations T y)

/-- The events of `DG_COGEX(FRAME)` (R190). -/
def cogexDatagramEvents (p T : Nat) (frame : Frame) : List Event :=
  (shortDatagram frame).flatMap fun y => pulseEvents p T (cogexDurations T y)

/-- The events of `GUARD_ENTER` (R201, R202). -/
def guardEnterEvents (s : State) : List Event :=
  [.regRead s.platform.addrOpMode s.radio.opMode, .regRead s.platform.addrModul s.radio.modul,
   .regWrite s.platform.addrModul s.platform.valOokContNosync, .regWrite s.platform.addrOpMode s.platform.valTx]

/-- The events of `GUARD_EXIT`, with the values `GUARD_ENTER` saved (R203). -/
def guardExitEvents (s : State) : List Event :=
  [.regWrite s.platform.addrOpMode s.radio.opMode, .regWrite s.platform.addrModul s.radio.modul]

/-- `(datagram ; DelayMs(RDELAY)) ^ REPEATS` (R153, R157). -/
def bodyEvents (s : State) (datagram : List Event) : List Event :=
  (List.replicate s.repeats.toNat (datagram ++ [.delayMs s.rdelay.toNat])).flatten

/-- The whole trace of a send begun in `s` (R157, R176, R191). -/
def sendEvents (s : State) (datagram : List Event) : List Event :=
  guardEnterEvents s ++ bodyEvents s datagram ++ guardExitEvents s

/-- The state after a send begun in `s` that passed validation (R161): the trace has grown, pad `PIN` is LOW if a
datagram was sent, the radio and the Configuration are as before, the status is clear and the working registers hold no
value. -/
def afterSend (s : State) (datagram : List Event) : State :=
  endSend (performed
    { s with
      trace := s.trace ++ sendEvents s datagram
      pads := if s.repeats = 0 then s.pads
        else PadSpace.write s.pads s.pin.toNat { s.pad s.pin.toNat with lvl := .low } })

/-- A send as one whole: refused, faulted, or performed to its end. -/
def wholeSend (fields : Option Cause) (datagram : List Event) (s : State) : Result :=
  if s.pinValid then
    .next (match sendFault fields s with
      | some c => raise c s
      | none => afterSend s datagram)
  else .refused .invalidPin

/-- A whole command in one piece (R150, R170, R185, R215, R220; R256 allows this granularity). -/
def bigStep (i : Instr) (s : State) : Result :=
  match i with
  | .setPin _ | .setTiming _ _ _ => exec i s
  | .sendNew addr unit on group dim =>
    wholeSend (newFieldFault addr unit group dim)
      (newDatagramEvents s.pin.toNat s.period.toNat (newFrame addr unit on group) (newDim on dim)) s
  | .sendOld house unit on =>
    wholeSend (oldFieldFault house unit)
      (oldDatagramEvents s.pin.toNat s.period.toNat (oldFrame s.platform house unit on)) s
  | .sendCogex house unit on =>
    wholeSend (cogexFieldFault house unit)
      (cogexDatagramEvents s.pin.toNat s.period.toNat (cogexFrame s.platform house unit on)) s

/-- The sequencer steps of one repetition (R252). -/
def stepsPerRepeat : Instr → Nat
  | .sendNew _ _ on _ dim => if newDim on dim = 0 then 36 else 40
  | .sendOld _ _ _ | .sendCogex _ _ _ => 15
  | .setPin _ | .setTiming _ _ _ => 0

/-- The fault a command raises at acceptance, if any. -/
def commandFault (i : Instr) (s : State) : Option Cause :=
  match i with
  | .setPin _ | .setTiming _ _ _ => none
  | .sendNew addr unit _ group dim => sendFault (newFieldFault addr unit group dim) s
  | .sendOld house unit _ => sendFault (oldFieldFault house unit) s
  | .sendCogex house unit _ => sendFault (cogexFieldFault house unit) s

/-- The command is a send (R2). -/
def isSend : Instr → Bool
  | .setPin _ | .setTiming _ _ _ => false
  | .sendNew _ _ _ _ _ | .sendOld _ _ _ | .sendCogex _ _ _ => true

/-- The number of steps from a command's acceptance to `IDLE` (R252, R257): `9 + REPEATS * k` for a send that passes
validation, one for every other command. -/
def commandSteps (i : Instr) (s : State) : Nat :=
  if isSend i ∧ s.pinValid ∧ commandFault i s = none then 9 + s.repeats.toNat * stepsPerRepeat i else 1

/-- The requested time of a list of events in microseconds, the sum of the lengths of its delays (R137, R160, R320,
R322). -/
def requestedUs : List Event → Nat
  | [] => 0
  | e :: es => nominalUs e + requestedUs es

/-- The requested time of one datagram of a send with the period `T`, the `D` of R322 (R320). -/
def datagramUs (T : Nat) : Instr → Nat
  | .sendNew _ _ on _ dim => if newDim on dim = 0 then 278 * T else 306 * T
  | .sendOld _ _ _ | .sendCogex _ _ _ => 76 * T
  | .setPin _ | .setTiming _ _ _ => 0

end Sys2Proof.Machine
end

