-- ==== Sys2Proof/Machine/RowTable.lean ====
section
/-! DEFINITION. The step table of R237 as a relation, row by row and with its conditions and durations as the table
writes them: the declarative counterpart of `fireRow` (`Sequencer.lean`), against which the latter is stated. Row 1 is
the acceptance of a send. -/

namespace Sys2Proof.Machine

/-- `(d1, d2)` of `NEWBIT(b)` (R155). -/
def newBitPair (T : Nat) (b : Bool) : Nat × Nat := if b then (5 * T, 1 * T) else (1 * T, 5 * T)

/-- `(d1, d2)` of `OLDBIT(b)` and `COGEXBIT(b)` (R174, R189). -/
def shortBitPair (T : Nat) (b : Bool) : Nat × Nat := if b then (3 * T, 1 * T) else (1 * T, 3 * T)

/-- `SendRow n s t`: row `n` of R237 is enabled in `s` and its firing leaves `t`. -/
inductive SendRow : Nat → State → State → Prop where
  | saveOpMode {s : State} (hq : s.seq = .saveOpMode) :
    SendRow 2 s { s with
      trace := s.trace ++ [.regRead s.platform.addrOpMode s.radio.opMode]
      work.savedOpMode := s.radio.opMode, seq := .saveModul }
  | saveModul {s : State} (hq : s.seq = .saveModul) :
    SendRow 3 s { s with
      trace := s.trace ++ [.regRead s.platform.addrModul s.radio.modul]
      work.savedModul := s.radio.modul, seq := .setModul }
  | setModul {s : State} (hq : s.seq = .setModul) :
    SendRow 4 s { s with
      trace := s.trace ++ [.regWrite s.platform.addrModul s.platform.valOokContNosync]
      radio.modul := s.platform.valOokContNosync, seq := .setOpMode }
  | setOpMode {s : State} (hq : s.seq = .setOpMode) :
    SendRow 5 s { s with
      trace := s.trace ++ [.regWrite s.platform.addrOpMode s.platform.valTx]
      radio.opMode := s.platform.valTx, work.repCnt := s.repeats, seq := .repTest }
  | repeatAgain {s : State} (hq : s.seq = .repTest) (hn : s.work.repCnt ≠ 0) :
    SendRow 6 s { s with seq := .start }
  | repeatEnd {s : State} (hq : s.seq = .repTest) (hn : s.work.repCnt = 0) :
    SendRow 7 s { s with seq := .restOpMode }
  | startNew {s : State} (hq : s.seq = .start) (hp : s.work.proto = .new) :
    SendRow 8 s { s.pulsed (0, 10 * s.period.toNat) with work.bitIdx := 31, seq := .bits }
  | startShort {s : State} (hq : s.seq = .start) (hp : s.work.proto = .old ∨ s.work.proto = .cogex) :
    SendRow 9 s { s.pulsed (0, 3 * s.period.toNat) with work.bitIdx := 0, seq := .bits }
  | dimmer {s : State} (hq : s.seq = .bits) (hp : s.work.proto = .new) (hi : s.work.bitIdx = 4)
      (hd : s.work.dim ≠ 0) :
    SendRow 10 s { s.pulsed (s.period.toNat, s.period.toNat) with work.bitIdx := 3, seq := .bits }
  | newBit {s : State} (hq : s.seq = .bits) (hp : s.work.proto = .new) (hi : 0 < s.work.bitIdx.toNat)
      (hd : ¬(s.work.bitIdx = 4 ∧ s.work.dim ≠ 0)) :
    SendRow 11 s { s.pulsed (newBitPair s.period.toNat (s.work.frame.getLsbD s.work.bitIdx.toNat)) with
      work.bitIdx := s.work.bitIdx - 1, seq := .bits }
  | newLastOnOff {s : State} (hq : s.seq = .bits) (hp : s.work.proto = .new) (hi : s.work.bitIdx = 0)
      (hd : s.work.dim = 0) :
    SendRow 12 s { s.pulsed (newBitPair s.period.toNat (s.work.frame.getLsbD 0)) with seq := .stop }
  | newLastDim {s : State} (hq : s.seq = .bits) (hp : s.work.proto = .new) (hi : s.work.bitIdx = 0)
      (hd : s.work.dim ≠ 0) :
    SendRow 13 s { s.pulsed (newBitPair s.period.toNat (s.work.frame.getLsbD 0)) with
      work.bitIdx := 3, seq := .dimBits }
  | shortBit {s : State} (hq : s.seq = .bits) (hp : s.work.proto = .old ∨ s.work.proto = .cogex)
      (hi : s.work.bitIdx.toNat < 11) :
    SendRow 14 s { s.pulsed (shortBitPair s.period.toNat (s.work.frame.getLsbD s.work.bitIdx.toNat)) with
      work.bitIdx := s.work.bitIdx + 1, seq := .bits }
  | shortLast {s : State} (hq : s.seq = .bits) (hp : s.work.proto = .old ∨ s.work.proto = .cogex)
      (hi : s.work.bitIdx = 11) :
    SendRow 15 s { s.pulsed (shortBitPair s.period.toNat (s.work.frame.getLsbD 11)) with seq := .gap }
  | dimBit {s : State} (hq : s.seq = .dimBits) (hi : 0 < s.work.bitIdx.toNat) (hr : s.work.bitIdx.toNat ≤ 3) :
    SendRow 16 s { s.pulsed (newBitPair s.period.toNat (s.work.dim.getLsbD s.work.bitIdx.toNat)) with
      work.bitIdx := s.work.bitIdx - 1, seq := .dimBits }
  | dimLast {s : State} (hq : s.seq = .dimBits) (hi : s.work.bitIdx = 0) :
    SendRow 17 s { s.pulsed (newBitPair s.period.toNat (s.work.dim.getLsbD 0)) with seq := .stop }
  | stop {s : State} (hq : s.seq = .stop) :
    SendRow 18 s { s.pulsed (0, 10 * s.period.toNat) with seq := .gap }
  | gap {s : State} (hq : s.seq = .gap) (hn : s.work.repCnt ≠ 0) :
    SendRow 19 s { s with
      trace := s.trace ++ [.delayMs s.rdelay.toNat], work.repCnt := s.work.repCnt - 1, seq := .repTest }
  | restOpMode {s : State} (hq : s.seq = .restOpMode) :
    SendRow 20 s { s with
      trace := s.trace ++ [.regWrite s.platform.addrOpMode s.work.savedOpMode]
      radio.opMode := s.work.savedOpMode, seq := .restModul }
  | restModul {s : State} (hq : s.seq = .restModul) :
    SendRow 21 s { s with
      trace := s.trace ++ [.regWrite s.platform.addrModul s.work.savedModul]
      radio.modul := s.work.savedModul, seq := .done }
  | done {s : State} (hq : s.seq = .done) :
    SendRow 22 s { s with
      busy := false, seq := .idle, work := freeWorking s.freeDraws, freeDraws := s.freeDraws + 1 }

end Sys2Proof.Machine
end

