-- ==== Sys2Proof/WellFormed.lean ====
section
/-! DEFINITION. The legal field values of a command: the ranges of R94, R95 and the table of R269. By their types all
commands can be encoded, so these ranges are the only check there is. A command outside them is still a command: it is
decoded, accepted, and raises `ValidationError` (R122). -/

namespace Sys2Proof

/-- The command's fields lie in the ranges of R269. -/
abbrev Instr.wellFormed : Instr → Prop
  | .setPin _ => True
  | .setTiming _ _ _ => True
  | .sendNew addr unit _ group dim => addr.toNat ≤ 67108863 ∧ (group = false → unit.toNat ≤ 15) ∧ dim.toNat ≤ 15
  | .sendOld house unit _ => (65 ≤ house.toNat ∧ house.toNat ≤ 80) ∧ (1 ≤ unit.toNat ∧ unit.toNat ≤ 16)
  | .sendCogex house unit _ => (1 ≤ house.toNat ∧ house.toNat ≤ 15) ∧ (1 ≤ unit.toNat ∧ unit.toNat ≤ 15)

end Sys2Proof
end

