-- ==== Sys2Proof/Safety.lean ====
section
/-! DEFINITION. What holds in every state a run from reset reaches, and what a safe run is. -/

namespace Sys2Proof

open Machine

/-- The positions of a datagram under way, where `REP_CNT` counts it as not yet sent (R248). -/
def inDatagram : Seq → Bool
  | .start | .bits | .dimBits | .stop | .gap => true
  | _ => false

/-- The positions between the guard's set and restore stages, where the radio is forced to transmit mode (R204). -/
def inBody : Seq → Bool
  | .repTest | .start | .bits | .dimBits | .stop | .gap | .restOpMode => true
  | _ => false

/-- The invariant of the machine. -/
structure Inv (s : State) : Prop where
  /-- The pad space is in canonical form. -/
  padsCanonical : PadSpace.wf s.pads
  /-- Only pads that exist have contents (R75). -/
  padsExist : ∀ e ∈ s.pads, e.1 < s.platform.nPins
  /-- Between steps every pad is LOW: a Pulse Primitive call ends LOW (R136). -/
  padsLow : ∀ p, (s.pad p).lvl = .low
  /-- `SEQ` is `IDLE` exactly when `BUSY = 0` (R38). -/
  busyIffRunning : s.busy = true ↔ s.seq ≠ .idle
  /-- `ERR` is set exactly with a cause (R265). -/
  errIffCause : s.err = true ↔ s.cause ≠ .noFault
  /-- A send runs only after it was performed without a fault (R42, R279). -/
  busyNoFault : s.busy = true → s.cause = .noFault
  /-- A send runs only on a pad that exists (R218). -/
  busyPin : s.busy = true → s.pin.toNat < s.platform.nPins
  /-- A send runs only with `PERIOD > CORRECTION_US` (R25). -/
  busyPeriod : s.busy = true → Config.correctionUs < s.period.toNat
  /-- The range of `BIT_IDX` in `BITS` for OLD and COGEX (R246). -/
  shortRange : s.seq = .bits → s.work.proto ≠ .new → s.work.bitIdx.toNat ≤ 11
  /-- `DIMBITS` belongs to the NEW dim branch, and its index is in 0..3 (R242, R246). -/
  dimRange : s.seq = .dimBits → s.work.proto = .new ∧ s.work.dim ≠ 0 ∧ s.work.bitIdx.toNat ≤ 3
  /-- OLD and COGEX never reach `STOP` (R247). -/
  stopNew : s.seq = .stop → s.work.proto = .new
  /-- A datagram under way is still counted (R248). -/
  counted : inDatagram s.seq = true → s.work.repCnt ≠ 0
  /-- `REP_CNT` never exceeds `REPEATS` once it is loaded (R39, R240). -/
  countBound : inBody s.seq = true → s.work.repCnt.toNat ≤ s.repeats.toNat
  /-- An OLD or COGEX Frame has 12 bits, and its `DIM` is zero (R31, R32, R125). -/
  frameNarrow : s.busy = true → s.work.proto ≠ .new → s.work.frame.toNat < 2 ^ 12 ∧ s.work.dim = 0
  /-- Inside the guard the radio is in continuous OOK transmit mode (R204). -/
  radioForced : inBody s.seq = true → s.radio = ⟨s.platform.valTx, s.platform.valOokContNosync⟩
  /-- The modulation type is forced first and restored last (R202, R203). -/
  modulForced : s.seq = .setOpMode ∨ s.seq = .restModul → s.radio.modul = s.platform.valOokContNosync

/-- A step that neither faults nor is refused. -/
def SafeStep (s : State) : Prop := ∃ t, step s = .next t

/-- The next move of the outside world is none of those the spec leaves undefined: no SETPIN with a pin id that names no
pad, and no send while `PIN` names none (R218, R315, U1). -/
def inputAllowed (s : State) : Bool :=
  match s.inputs with
  | .word w :: _ =>
    match decode w with
    | .ok (.setPin pin) => pin.toNat < s.platform.nPins
    | .ok (.setTiming _ _ _) => true
    | .ok (.sendNew _ _ _ _ _) | .ok (.sendOld _ _ _) | .ok (.sendCogex _ _ _) => s.pinValid
    | .error _ => true
  | _ => true

/-- The levels an event list writes, in order. -/
def pinLevels : List Event → List Level
  | [] => []
  | .pinWrite _ l :: es => l :: pinLevels es
  | _ :: es => pinLevels es

/-- The event drives or configures no pad but `p` (R48). -/
def onlyPad (p : Nat) : Event → Prop
  | .pinMode q => q = p
  | .pinWrite q _ => q = p
  | _ => True

/-- The event is a radio register transaction. -/
def isRadioEvent : Event → Bool
  | .regRead _ _ | .regWrite _ _ => true
  | _ => false

/-- The run of `n` steps of the machine from `s`. -/
def runSteps (n : Nat) (s : State) : Result := Host.Core.run core n s

/-- The state in which the host offers the word `w` next. -/
def offer (w : CommandWord) (s : State) : State := { s with inputs := .word w :: s.inputs }

end Sys2Proof
end

