-- ==== Sys2Proof/Certificates/Slice0/Obligations.lean ====
section
/-! DEFINITION. The statements for the provers. A statement about a send names, as hypotheses, only the conditions under
which the spec says it is performed: `PIN` names a pad (R218), the fields are legal (R269), `PERIOD > CORRECTION_US`
(R25). -/

section

open Sys2Proof Sys2Proof.Machine

/-! ## Encoding (`30_encoding.md` section 1) -/

/-- Every command is read back from its command word, with every operand at every value the format admits
(R92 to R96). -/
def Obligations.DecodeOfEncodeIsTheCommand : Prop := ∀ i : Instr, decode (encode i) = .ok i

/-- A word that is decoded is the command word of what it decodes to: no bit of it is ignored (R121). -/
def Obligations.EncodeOfDecodeIsTheWord : Prop := ∀ (w : CommandWord) (i : Instr), decode w = .ok i → encode i = w

/-- R97: a word is the command of a row exactly when `w & mask = match`, the rows are disjoint, the fields are extracted
as the formats say, and the command is then performed; a word of no row raises `IllegalCommand`. -/
def Obligations.AcceptedWordFollowsTheMatchAndMaskTable : Prop :=
  ∀ (s : State) (w : CommandWord),
    (w &&& 0xFFFFFFFFFFFFFF00#64 = 0x0100000000000000#64 →
      acceptWord w s = exec (.setPin (w.extractLsb' 0 8)) s) ∧
    (w &&& 0xFFFFFFFF00000000#64 = 0x0200000000000000#64 →
      acceptWord w s = exec (.setTiming (w.extractLsb' 16 16) (w.extractLsb' 8 8) (w.extractLsb' 0 8)) s) ∧
    (w &&& 0xFFFC000000000000#64 = 0x1000000000000000#64 →
      acceptWord w s = exec (.sendNew (w.extractLsb' 0 32) (w.extractLsb' 32 8) (w.getLsbD 48) (w.getLsbD 49)
        (w.extractLsb' 40 8)) s) ∧
    (w &&& 0xFFFFFFFFFFFE0000#64 = 0x1100000000000000#64 →
      acceptWord w s = exec (.sendOld (w.extractLsb' 0 8) (w.extractLsb' 8 8) (w.getLsbD 16)) s) ∧
    (w &&& 0xFFFFFFFFFFFE0000#64 = 0x1200000000000000#64 →
      acceptWord w s = exec (.sendCogex (w.extractLsb' 0 8) (w.extractLsb' 8 8) (w.getLsbD 16)) s) ∧
    ((∀ r ∈ opcodeTable, r.covers w = false) →
      acceptWord w s = .next { s with err := true, cause := .illegal }) ∧
    opcodeTable.Pairwise (fun a b => ¬(a.covers w = true ∧ b.covers w = true))

/-- Command words written out from the spec's encodings (vectors B1) decode to the commands they stand for. -/
def Obligations.WrittenOutWordsDecode : Prop :=
  decode 0x01000000000000FF = .ok (.setPin 255) ∧
  decode 0x0200000000FA020A = .ok (.setTiming 250 2 10) ∧
  decode 0x100109030014563E = .ok (.sendNew 1332798 3 true false 9) ∧
  decode 0x1100000000001050 = .ok (.sendOld 80 16 false) ∧
  decode 0x120000000001010C = .ok (.sendCogex 12 1 true) ∧
  decode 0x1300000000010101 = .error .unassignedOpcode ∧
  decode 0x100400000014563E = .error .reservedBitSet

/-- R120: an unassigned opcode raises `IllegalCommand`; nothing but `ERR` and `CAUSE` changes (the word is taken). -/
def Obligations.UnassignedOpcodeRaisesIllegalCommand : Prop :=
  ∀ (s : State) (w : CommandWord) (rest : List Input),
    portOpen s = true → s.inputs = .word w :: rest →
    w.extractLsb' 56 8 ∉ [0x01#8, 0x02#8, 0x10#8, 0x11#8, 0x12#8] →
    step s = .next { s with inputs := rest, err := true, cause := .illegal }

/-- R121: a legal opcode with any reserved bit of its format set raises `IllegalCommand` in the same way. -/
def Obligations.ReservedBitRaisesIllegalCommand : Prop :=
  ∀ (s : State) (w : CommandWord) (rest : List Input) (k : Nat),
    portOpen s = true → s.inputs = .word w :: rest → k < 56 → w.getLsbD k = true →
    (w.extractLsb' 56 8 = 0x01#8 ∧ 8 ≤ k ∨ w.extractLsb' 56 8 = 0x02#8 ∧ 32 ≤ k ∨
      w.extractLsb' 56 8 = 0x10#8 ∧ 50 ≤ k ∨ w.extractLsb' 56 8 = 0x11#8 ∧ 17 ≤ k ∨
      w.extractLsb' 56 8 = 0x12#8 ∧ 17 ≤ k) →
    step s = .next { s with inputs := rest, err := true, cause := .illegal }

/-! ## The command port -/

/-- A step that takes a word which decodes to a command is that command's meaning, with the word taken from the port
(R90, R97). -/
def Obligations.StepPerformsTheDecodedCommand : Prop :=
  ∀ (s : State) (w : CommandWord) (i : Instr) (rest : List Input),
    portOpen s = true → s.inputs = .word w :: rest → decode w = .ok i → step s = exec i { s with inputs := rest }

/-- While a send runs, nothing the outside world offers is taken or has any effect on what the block does
(R41, R90, R253, R313). -/
def Obligations.OffersDuringSendHaveNoEffect : Prop :=
  ∀ (s t : State) (offered : List Input),
    portOpen s = false → step s = .next t →
    t.inputs = s.inputs ∧ step { s with inputs := offered } = .next { t with inputs := offered }

/-- With nothing offered the block waits in `IDLE`; system start gives every register of the block its reset value and
leaves the radio and the trace alone; the transceiver driver changes its register and nothing else (R236, R301, U6; the
last two moves are the model's inputs, logs 7 and 8). -/
def Obligations.IdleBlockTakesTheOutsideMove : Prop :=
  ∀ s : State, portOpen s = true →
    (s.inputs = [] → step s = .next s) ∧
    (∀ rest, s.inputs = .reset :: rest → ∃ t, step s = .next t ∧ t.pin = s.platform.resetPin ∧
      t.period = s.platform.resetPeriodUs ∧ t.repeats = s.platform.resetRepeats ∧ t.rdelay = s.platform.resetDelayMs ∧
      t.status = 0 ∧ t.seq = .idle ∧ (∀ p, t.pad p = ⟨.input, .low⟩) ∧ t.radio = s.radio ∧ t.trace = s.trace ∧
      t.platform = s.platform ∧ t.inputs = rest) ∧
    (∀ rest v, s.inputs = .driverWrite .opMode v :: rest →
      step s = .next { s with inputs := rest, radio.opMode := v }) ∧
    (∀ rest v, s.inputs = .driverWrite .modul v :: rest →
      step s = .next { s with inputs := rest, radio.modul := v })

/-! ## The configuration commands (`45_config_pinmux.md`) -/

/-- SETPIN with a pin id that names a pad completes: `PIN` is that id, the pad is an output at LOW, the two events are
emitted, the report is cleared, and nothing else changes (R215, R216, R219). -/
def Obligations.SetPinSelectsAndDrivesTheNewPadLow : Prop :=
  ∀ (s : State) (pin : Byte), pin.toNat < s.platform.nPins →
    ∃ t, exec (.setPin pin) s = .next t ∧ t.pad pin.toNat = ⟨.output, .low⟩ ∧
      (∀ q, q ≠ pin.toNat → t.pad q = s.pad q) ∧
      t = { s with
        pin := pin
        pads := t.pads
        trace := s.trace ++ [.pinMode pin.toNat, .pinWrite pin.toNat .low]
        err := false
        cause := .noFault }

/-- R217: SETPIN does nothing to the pad it leaves. -/
def Obligations.SetPinLeavesTheOldPadAlone : Prop :=
  ∀ (s t : State) (pin : Byte), exec (.setPin pin) s = .next t → pin ≠ s.pin →
    (t.pad s.pin.toNat).dir = (s.pad s.pin.toNat).dir ∧ (t.pad s.pin.toNat).lvl = (s.pad s.pin.toNat).lvl

/-- SETTIMING completes on all values: the three timing registers are replaced together, unchecked, the report is
cleared, nothing else changes and no operation is performed (R220, R221). -/
def Obligations.SetTimingReplacesTheThreeTimingRegisters : Prop :=
  ∀ (s : State) (period : Period) (repeats rdelay : Byte),
    exec (.setTiming period repeats rdelay) s =
      .next { s with period := period, repeats := repeats, rdelay := rdelay, err := false, cause := .noFault }

/-- R218: SETPIN with `pin >= NPINS` has no meaning, and neither has any send while `PIN >= NPINS`. -/
def Obligations.InvalidPinIsRefused : Prop :=
  ∀ s : State,
    (∀ pin : Byte, s.platform.nPins ≤ pin.toNat → exec (.setPin pin) s = .refused .invalidPin) ∧
    (s.platform.nPins ≤ s.pin.toNat → ∀ i : Instr, isSend i = true → exec i s = .refused .invalidPin)

/-! ## Validation and faults (`60_exceptions.md`) -/

/-- R151: the checks of SENDNEW in their order; the first failure is reported and nothing else changes. -/
def Obligations.SendNewReportsTheFirstFailedCheck : Prop :=
  ∀ (s : State) (addr : BitVec 32) (unit : Byte) (on group : Bool) (dim : Byte), s.pin.toNat < s.platform.nPins →
    (2 ^ 26 ≤ addr.toNat →
      exec (.sendNew addr unit on group dim) s = .next { s with err := true, cause := .address }) ∧
    (addr.toNat < 2 ^ 26 → group = false → 15 < unit.toNat →
      exec (.sendNew addr unit on group dim) s = .next { s with err := true, cause := .unit }) ∧
    (addr.toNat < 2 ^ 26 → group = true ∨ unit.toNat ≤ 15 → 15 < dim.toNat →
      exec (.sendNew addr unit on group dim) s = .next { s with err := true, cause := .dim }) ∧
    (addr.toNat < 2 ^ 26 → group = true ∨ unit.toNat ≤ 15 → dim.toNat ≤ 15 → s.period.toNat ≤ 150 →
      exec (.sendNew addr unit on group dim) s = .next { s with err := true, cause := .timing })

/-- R171: the checks of SENDOLD in their order; the legal letters are 'A' (65) to 'P' (80), and unit 0 is refused, never
underflowed (R172). -/
def Obligations.SendOldReportsTheFirstFailedCheck : Prop :=
  ∀ (s : State) (house unit : Byte) (on : Bool), s.pin.toNat < s.platform.nPins →
    (house.toNat < 65 ∨ 80 < house.toNat →
      exec (.sendOld house unit on) s = .next { s with err := true, cause := .address }) ∧
    (65 ≤ house.toNat → house.toNat ≤ 80 → unit.toNat < 1 ∨ 16 < unit.toNat →
      exec (.sendOld house unit on) s = .next { s with err := true, cause := .unit }) ∧
    (65 ≤ house.toNat → house.toNat ≤ 80 → 1 ≤ unit.toNat → unit.toNat ≤ 16 → s.period.toNat ≤ 150 →
      exec (.sendOld house unit on) s = .next { s with err := true, cause := .timing })

/-- R186: the checks of SENDCOGEX in their order. -/
def Obligations.SendCogexReportsTheFirstFailedCheck : Prop :=
  ∀ (s : State) (house unit : Byte) (on : Bool), s.pin.toNat < s.platform.nPins →
    (house.toNat < 1 ∨ 15 < house.toNat →
      exec (.sendCogex house unit on) s = .next { s with err := true, cause := .address }) ∧
    (1 ≤ house.toNat → house.toNat ≤ 15 → unit.toNat < 1 ∨ 15 < unit.toNat →
      exec (.sendCogex house unit on) s = .next { s with err := true, cause := .unit }) ∧
    (1 ≤ house.toNat → house.toNat ≤ 15 → 1 ≤ unit.toNat → unit.toNat ≤ 15 → s.period.toNat ≤ 150 →
      exec (.sendCogex house unit on) s = .next { s with err := true, cause := .timing })

/-- A command whose fields lie in the ranges of R269 raises no `ValidationError`, and one whose fields do not raises
one, always. -/
def Obligations.ValidationErrorExactlyOutsideTheLegalRanges : Prop :=
  ∀ (s : State) (i : Instr), isSend i = true → s.pin.toNat < s.platform.nPins →
    ∃ t, exec i s = .next t ∧ (i.wellFormed → t.cause = .noFault ∨ t.cause = .timing) ∧
      (¬ i.wellFormed → t.err = true ∧ (t.cause = .address ∨ t.cause = .unit ∨ t.cause = .dim))

/-- R271: a command that ends in a fault writes `ERR` and the cause's code and changes nothing else: no event, no pad,
no register, `SEQ` and `BUSY` as they were. -/
def Obligations.FaultChangesOnlyTheReport : Prop :=
  ∀ (s t : State) (w : CommandWord), acceptWord w s = .next t → t.err = true →
    t.cause ≠ .noFault ∧ t = { s with err := true, cause := t.cause }

/-- R27 and the cause codes of R265: the layout of `STATUS`, and its reset value. -/
def Obligations.StatusShowsBusyErrAndCause : Prop :=
  (∀ s : State, s.status.getLsbD 0 = s.busy ∧ s.status.getLsbD 1 = s.err ∧ s.status.extractLsb' 2 2 = 0 ∧
    s.status.extractLsb' 4 4 = (match s.cause with
      | .noFault => 0#4 | .address => 1#4 | .unit => 2#4 | .dim => 3#4 | .illegal => 4#4 | .timing => 5#4)) ∧
  State.reset.status = 0

/-! ## Acceptance of a send (R150, R170, R185) and the Frames (R100 to R110) -/

/-- SENDNEW with legal fields completes: it is accepted with the Frame of R100 and R101 and the dim level of R103, and
the sequencer starts; nothing else changes. -/
def Obligations.SendNewIsAcceptedWithItsFrame : Prop :=
  ∀ (s : State) (addr : BitVec 32) (unit : Byte) (on group : Bool) (dim : Byte),
    s.pin.toNat < s.platform.nPins → (Instr.sendNew addr unit on group dim).wellFormed → 150 < s.period.toNat →
    ∃ f : Frame,
      exec (.sendNew addr unit on group dim) s = .next { s with
        busy := true, err := false, cause := .noFault, seq := .saveOpMode
        work.frame := f, work.proto := .new, work.dim := if on then dim.setWidth 4 else 0 } ∧
      f.extractLsb' 6 26 = addr.setWidth 26 ∧ f.getLsbD 5 = group ∧ f.getLsbD 4 = on ∧
      f.extractLsb' 0 4 = if group ∨ unit = 0 then 0 else (unit - 1).setWidth 4

/-- SENDOLD with legal fields completes: it is accepted with the Frame of R106. -/
def Obligations.SendOldIsAcceptedWithItsFrame : Prop :=
  ∀ (s : State) (house unit : Byte) (on : Bool),
    s.pin.toNat < s.platform.nPins → (Instr.sendOld house unit on).wellFormed → 150 < s.period.toNat →
    ∃ f : Frame,
      exec (.sendOld house unit on) s = .next { s with
        busy := true, err := false, cause := .noFault, seq := .saveOpMode
        work.frame := f, work.proto := .old, work.dim := 0 } ∧
      f.extractLsb' 12 20 = 0 ∧ f.getLsbD 11 = on ∧ f.extractLsb' 8 3 = s.platform.oldFixedBits ∧
      (f.extractLsb' 4 4).toNat = unit.toNat - 1 ∧ (f.extractLsb' 0 4).toNat = house.toNat - 65

/-- SENDCOGEX with legal fields completes: it is accepted with the Frame of R109; unit and house are placed as given
(R187). -/
def Obligations.SendCogexIsAcceptedWithItsFrame : Prop :=
  ∀ (s : State) (house unit : Byte) (on : Bool),
    s.pin.toNat < s.platform.nPins → (Instr.sendCogex house unit on).wellFormed → 150 < s.period.toNat →
    ∃ f : Frame,
      exec (.sendCogex house unit on) s = .next { s with
        busy := true, err := false, cause := .noFault, seq := .saveOpMode
        work.frame := f, work.proto := .cogex, work.dim := 0 } ∧
      f.extractLsb' 12 20 = 0 ∧ f.getLsbD 11 = on ∧ f.extractLsb' 9 2 = s.platform.cogexFixedBits ∧
      (f.extractLsb' 5 4).toNat = unit.toNat ∧ (f.extractLsb' 1 4).toNat = house.toNat ∧ f.getLsbD 0 = on

/-- R102: the group flag and the unit sentinel are one mechanism. -/
def Obligations.GroupSentinelIsFrameBitFive : Prop :=
  ∀ (addr : BitVec 32) (unit : Byte) (on group : Bool), group = true ∨ unit.toNat ≤ 15 →
    (newFrame addr unit on group).getLsbD 5 = group ∧ (newFrame addr unit on group).getLsbD 4 = on ∧
    (group = true → (newFrame addr unit on group).extractLsb' 0 4 = 0)

/-- R158: off forces no dim. Both commands are accepted alike, and the two whole traces are equal event for event. -/
def Obligations.OffCommandIgnoresItsDimLevel : Prop :=
  ∀ (s : State) (addr : BitVec 32) (unit : Byte) (group : Bool) (dim : Byte), dim.toNat ≤ 15 →
    exec (.sendNew addr unit false group dim) s = exec (.sendNew addr unit false group 0) s ∧
    bigStep (.sendNew addr unit false group dim) s = bigStep (.sendNew addr unit false group 0) s

/-- R159: with `group` set, commands that differ only in `unit` have the same Frame, `(addr << 6) | 0x20 | on`, and the
same trace. -/
def Obligations.GroupCommandIgnoresItsUnit : Prop :=
  ∀ (s : State) (addr : BitVec 32) (unit unit' : Byte) (on : Bool) (dim : Byte),
    bigStep (.sendNew addr unit on true dim) s = bigStep (.sendNew addr unit' on true dim) s ∧
    newFrame addr unit on true = (addr <<< 6) ||| 0x20#32 ||| (if on then 0x10#32 else 0#32)

/-! ## The Pulse Primitive (`40_pulse_primitive.md`) -/

/-- R130: the events of a Pulse Primitive call, for all three variants; beside them only pad `PIN` changes. -/
def Obligations.PulsePrimitivePerformsItsContract : Prop :=
  ∀ (s : State) (d1 d2 : Nat), s.pin.toNat < s.platform.nPins → 150 < s.period.toNat →
    ∃ t, pulseNew (d1, d2) s = .next t ∧ pulseOld (d1, d2) s = .next t ∧ pulseCogex (d1, d2) s = .next t ∧
      t = { s with
        pads := t.pads
        trace := s.trace ++
          (if d1 ≠ 0 then
            [.pinWrite s.pin.toNat .high, .delayUs (s.period.toNat - 150), .pinWrite s.pin.toNat .low,
             .delayUs (d1 + 150)]
          else []) ++
          [.pinWrite s.pin.toNat .high, .delayUs (s.period.toNat - 150), .pinWrite s.pin.toNat .low,
           .delayUs (d2 + 150)] }

/-- A Pulse Primitive call leaves pad `PIN` LOW with the direction it had, touches no other pad, and drives nothing on
the wire of a pad that is an input (R46, R47, R48, R136). -/
def Obligations.PulseLeavesOnlyTheSelectedPadLow : Prop :=
  ∀ (s t : State) (d1 d2 : Nat),
    pulseNew (d1, d2) s = .next t ∨ pulseOld (d1, d2) s = .next t ∨ pulseCogex (d1, d2) s = .next t →
    (t.pad s.pin.toNat).lvl = .low ∧ (t.pad s.pin.toNat).dir = (s.pad s.pin.toNat).dir ∧
    (∀ q, q ≠ s.pin.toNat → t.pad q = s.pad q) ∧
    ((s.pad s.pin.toNat).dir = .input → t.wire s.pin.toNat = none)

/-- R137: the requested time of a call is the sum of its holds, `2*T + d1 + d2`, or `T + d2` for a marker. -/
def Obligations.PulseRequestedTimeIsTheSumOfItsHolds : Prop :=
  ∀ (s t : State) (d1 d2 : Nat),
    pulseNew (d1, d2) s = .next t ∨ pulseOld (d1, d2) s = .next t ∨ pulseCogex (d1, d2) s = .next t →
    requestedUs t.trace = requestedUs s.trace +
      (if d1 ≠ 0 then 2 * s.period.toNat + d1 + d2 else s.period.toNat + d2)

/-- The symbol alphabets of R113 to R115 and their totals: 6 periods for every NEW bit, 4 for every OLD and COGEX bit;
markers have `d1 = 0` and only markers do. -/
def Obligations.BitSymbolsHaveFixedTotals : Prop :=
  ∀ (T : Nat) (b : Bool), 150 < T →
    (newDurations T (.bit b)).1 + (newDurations T (.bit b)).2 = 6 * T ∧
    (oldDurations T (.bit b)).1 + (oldDurations T (.bit b)).2 = 4 * T ∧
    (cogexDurations T (.bit b)).1 + (cogexDurations T (.bit b)).2 = 4 * T ∧
    newDurations T .start = (0, 10 * T) ∧ newDurations T .stop = (0, 10 * T) ∧ newDurations T .dimmer = (T, T) ∧
    oldDurations T .start = (0, 3 * T) ∧ cogexDurations T .start = (0, 3 * T) ∧
    (newDurations T (.bit b)).1 ≠ 0 ∧ (oldDurations T (.bit b)).1 ≠ 0 ∧ (cogexDurations T (.bit b)).1 ≠ 0

/-! ## The sequencer (`46_sequencer_fsm.md`) and the Mode Guard (`44_mode_guard.md`) -/

/-- A row of R237 that is enabled during a send is what the step does. -/
def Obligations.EnabledTableRowFires : Prop :=
  ∀ (n : Nat) (s t : State), s.pin.toNat < s.platform.nPins → 150 < s.period.toNat →
    SendRow n s t → step s = .next t

/-- During a send the machine moves only as the table says. -/
def Obligations.OnlyTableRowsFire : Prop :=
  ∀ s t : State, s.seq ≠ .idle → step s = .next t → ∃ n, SendRow n s t

/-- R250: in every state of a send that a run can reach exactly one row is enabled, and it determines the next state. -/
def Obligations.ExactlyOneRowIsEnabled : Prop :=
  ∀ s : State, Inv s → s.seq ≠ .idle →
    ∃ n t, SendRow n s t ∧ ∀ (m : Nat) (u : State), SendRow m s u → m = n ∧ u = t

/-- Nothing can fault or be refused between acceptance and the return to `IDLE` (R279), and while the port is open only
the moves the spec leaves undefined stop the machine (R218, U1). -/
def Obligations.OnlyUndefinedOffersStopTheMachine : Prop :=
  ∀ s : State, Inv s →
    (portOpen s = false ∨ inputAllowed s = true → SafeStep s) ∧
    (portOpen s = true → inputAllowed s = false → step s = .refused .invalidPin)

/-- The four steps of `GUARD_ENTER`: both registers are read and saved, operating mode first; then the modulation type
and the operating mode are forced (R201, R202), and `REP_CNT` is loaded from `REPEATS` (R240). -/
def Obligations.GuardEnterSavesThenForcesTheRadio : Prop :=
  ∀ s : State, s.seq = .saveOpMode →
    runSteps 4 s = .next { s with
      trace := s.trace ++
        [.regRead s.platform.addrOpMode s.radio.opMode, .regRead s.platform.addrModul s.radio.modul,
         .regWrite s.platform.addrModul s.platform.valOokContNosync,
         .regWrite s.platform.addrOpMode s.platform.valTx]
      radio := ⟨s.platform.valTx, s.platform.valOokContNosync⟩
      work.savedOpMode := s.radio.opMode, work.savedModul := s.radio.modul, work.repCnt := s.repeats
      seq := .repTest }

/-- The three steps that end a send: the saved values are written back, operating mode first, always (R203), and `BUSY`
falls; the working registers then hold some value or other (R37). -/
def Obligations.GuardExitRestoresTheRadio : Prop :=
  ∀ s : State, s.seq = .restOpMode →
    ∃ w n, runSteps 3 s = .next { s with
      trace := s.trace ++ [.regWrite s.platform.addrOpMode s.work.savedOpMode,
        .regWrite s.platform.addrModul s.work.savedModul]
      radio := ⟨s.work.savedOpMode, s.work.savedModul⟩
      busy := false, seq := .idle, work := w, freeDraws := n }

/-- The Configuration cannot change during a send (R26), and neither can the platform. -/
def Obligations.ConfigurationIsFixedDuringSend : Prop :=
  ∀ s t : State, portOpen s = false → step s = .next t →
    t.pin = s.pin ∧ t.period = s.period ∧ t.repeats = s.repeats ∧ t.rdelay = s.rdelay ∧ t.platform = s.platform

/-- The status flags change during a send only at its end, where `BUSY` falls (R44), and the Frame, the dim level and
the protocol stay as they were accepted (R243). -/
def Obligations.SendKeepsStatusAndFrameToItsEnd : Prop :=
  ∀ s t : State, portOpen s = false → step s = .next t →
    t.err = s.err ∧ t.cause = s.cause ∧
    (s.seq ≠ .done → t.busy = s.busy ∧ t.work.frame = s.work.frame ∧ t.work.dim = s.work.dim ∧
      t.work.proto = s.work.proto) ∧
    (s.seq = .done → t.busy = false ∧ t.seq = .idle)

/-- The body does not touch the radio, and the guard touches no pad (R210). -/
def Obligations.BodyAndGuardStayApart : Prop :=
  ∀ s t : State, s.seq ≠ .idle → step s = .next t → ∃ es, t.trace = s.trace ++ es ∧
    (inBody s.seq = true → s.seq ≠ .restOpMode → t.radio = s.radio ∧ ∀ e ∈ es, isRadioEvent e = false) ∧
    (inDatagram s.seq = false → t.pads = s.pads ∧ ∀ e ∈ es, isRadioEvent e = true)

/-- R48: every pad operation has `PIN` as its pad, read at the moment of the operation, and no step but system start
touches another pad. -/
def Obligations.OnlyTheSelectedPadIsTouched : Prop :=
  ∀ s t : State, step s = .next t →
    (∃ es, t.trace = s.trace ++ es ∧ ∀ e ∈ es, onlyPad t.pin.toNat e) ∧
    ((portOpen s = true → s.inputs.head? ≠ some .reset) → ∀ q, q ≠ t.pin.toNat → t.pad q = s.pad q)

/-- The Configuration is written only by its commands and by system start: `PIN` by SETPIN, the three timing registers
by SETTIMING (R21 to R24, R26). -/
def Obligations.ConfigurationIsWrittenOnlyByItsCommands : Prop :=
  ∀ s t : State, step s = .next t → s.inputs.head? ≠ some .reset →
    (t.pin ≠ s.pin → portOpen s = true ∧
      ∃ w, s.inputs.head? = some (.word w) ∧ decode w = .ok (.setPin t.pin)) ∧
    (t.period ≠ s.period ∨ t.repeats ≠ s.repeats ∨ t.rdelay ≠ s.rdelay → portOpen s = true ∧
      ∃ w, s.inputs.head? = some (.word w) ∧ decode w = .ok (.setTiming t.period t.repeats t.rdelay))

/-- `ERR` and `CAUSE` are not sticky: every accepted word overwrites both and no command depends on them
(R42, R43). -/
def Obligations.EveryCommandOverwritesTheReport : Prop :=
  ∀ (s : State) (w : CommandWord) (err : Bool) (cause : Cause),
    acceptWord w { s with err := err, cause := cause } = acceptWord w s

/-! ## Invariants -/

/-- The invariant holds right after reset. -/
def Obligations.ResetStateMeetsTheInvariant : Prop := Inv State.reset

/-- Every step keeps the invariant, from every state that meets it. -/
def Obligations.EveryStepKeepsTheInvariant : Prop :=
  ∀ s t : State, Inv s → step s = .next t → Inv t

/-- The state after system start (R51): the OPEN parameters in the Configuration, `STATUS = 0`, `SEQ = IDLE`, every pad
an input at level 0, the radio as the driver left it, and an empty trace. -/
def Obligations.ResetLeavesTheStateOfTheResetTable : Prop :=
  (∀ (P : Config.Platform) (radio : Radio), (State.resetOn P radio).pin = P.resetPin ∧
    (State.resetOn P radio).period = P.resetPeriodUs ∧ (State.resetOn P radio).repeats = P.resetRepeats ∧
    (State.resetOn P radio).rdelay = P.resetDelayMs ∧ (State.resetOn P radio).status = 0 ∧
    (State.resetOn P radio).seq = .idle ∧ (∀ p, (State.resetOn P radio).pad p = ⟨.input, .low⟩) ∧
    (State.resetOn P radio).radio = radio ∧ (State.resetOn P radio).trace = []) ∧
  State.reset = State.resetOn Config.platform ⟨Config.radioOpModeAtStart, Config.radioModulAtStart⟩

/-! ## Whole commands -/

/-- R254: running the sequencer row by row from the acceptance of a command to `IDLE` gives exactly the whole command:
its trace, its end state, its fault or its refusal. -/
def Obligations.SequencerAgreesWithTheWholeCommand : Prop :=
  ∀ (s : State) (i : Instr), portOpen s = true → runSteps (commandSteps i s) (offer (encode i) s) = bigStep i s

/-- R157: the whole trace of a SENDNEW that passes validation, and its number of events; the send ends after
`9 + REPEATS * k` steps (R252), acceptance included. -/
def Obligations.SendNewRunsToItsEnd : Prop :=
  ∀ (s : State) (addr : BitVec 32) (unit : Byte) (on group : Bool) (dim : Byte),
    s.pin.toNat < s.platform.nPins → (Instr.sendNew addr unit on group dim).wellFormed → 150 < s.period.toNat →
    ∃ t u es, exec (.sendNew addr unit on group dim) s = .next t ∧
      runSteps (8 + s.repeats.toNat * (if t.work.dim = 0 then 36 else 40)) t = .next u ∧
      u.seq = .idle ∧ u.busy = false ∧ u.trace = s.trace ++ es ∧
      es = guardEnterEvents s ++
        (List.replicate s.repeats.toNat
          (newDatagramEvents s.pin.toNat s.period.toNat t.work.frame t.work.dim ++ [.delayMs s.rdelay.toNat])).flatten ++
        guardExitEvents s ∧
      es.length = 6 + s.repeats.toNat * (if t.work.dim = 0 then 265 else 297) ∧
      (newDatagramEvents s.pin.toNat s.period.toNat t.work.frame t.work.dim).length =
        if t.work.dim = 0 then 264 else 296

/-- R176: the whole trace of a SENDOLD that passes validation, its number of events, and the requested time of one
datagram. -/
def Obligations.SendOldRunsToItsEnd : Prop :=
  ∀ (s : State) (house unit : Byte) (on : Bool),
    s.pin.toNat < s.platform.nPins → (Instr.sendOld house unit on).wellFormed → 150 < s.period.toNat →
    ∃ t u es, exec (.sendOld house unit on) s = .next t ∧
      runSteps (8 + s.repeats.toNat * 15) t = .next u ∧ u.seq = .idle ∧ u.busy = false ∧ u.trace = s.trace ++ es ∧
      es = guardEnterEvents s ++
        (List.replicate s.repeats.toNat
          (oldDatagramEvents s.pin.toNat s.period.toNat t.work.frame ++ [.delayMs s.rdelay.toNat])).flatten ++
        guardExitEvents s ∧
      es.length = 6 + s.repeats.toNat * 101 ∧
      (oldDatagramEvents s.pin.toNat s.period.toNat t.work.frame).length = 100 ∧
      requestedUs (oldDatagramEvents s.pin.toNat s.period.toNat t.work.frame) = 76 * s.period.toNat

/-- R191: the whole trace of a SENDCOGEX that passes validation, its number of events, and the requested time of one
datagram; the datagrams of equal OLD and COGEX Frames are equal event for event. -/
def Obligations.SendCogexRunsToItsEnd : Prop :=
  ∀ (s : State) (house unit : Byte) (on : Bool),
    s.pin.toNat < s.platform.nPins → (Instr.sendCogex house unit on).wellFormed → 150 < s.period.toNat →
    ∃ t u es, exec (.sendCogex house unit on) s = .next t ∧
      runSteps (8 + s.repeats.toNat * 15) t = .next u ∧ u.seq = .idle ∧ u.busy = false ∧ u.trace = s.trace ++ es ∧
      es = guardEnterEvents s ++
        (List.replicate s.repeats.toNat
          (cogexDatagramEvents s.pin.toNat s.period.toNat t.work.frame ++ [.delayMs s.rdelay.toNat])).flatten ++
        guardExitEvents s ∧
      es.length = 6 + s.repeats.toNat * 101 ∧
      (cogexDatagramEvents s.pin.toNat s.period.toNat t.work.frame).length = 100 ∧
      requestedUs (cogexDatagramEvents s.pin.toNat s.period.toNat t.work.frame) = 76 * s.period.toNat ∧
      ∀ f : Frame, cogexDatagramEvents s.pin.toNat s.period.toNat f = oldDatagramEvents s.pin.toNat s.period.toNat f

/-- The state after a send that passed validation (R161, R177, R192). The radio's registers equal their values before
the command (R204), the Configuration is unchanged, the status is clear, pad `PIN` is LOW if a datagram was sent and
unchanged if none was. The working registers are dead (R37); that they then hold the model's free values
`freeWorking n` is the model's choice (log 4). -/
def Obligations.SendRestoresTheRadioAndLeavesThePinLow : Prop :=
  ∀ (s : State) (i : Instr), portOpen s = true → isSend i = true → i.wellFormed →
    s.pin.toNat < s.platform.nPins → 150 < s.period.toNat →
    ∃ u n, runSteps (commandSteps i s) (offer (encode i) s) = .next u ∧
      u.pin = s.pin ∧ u.period = s.period ∧ u.repeats = s.repeats ∧ u.rdelay = s.rdelay ∧
      u.busy = false ∧ u.err = false ∧ u.cause = .noFault ∧ u.seq = .idle ∧
      (s.repeats ≠ 0 → (u.pad s.pin.toNat).lvl = .low) ∧ (s.repeats = 0 → u.pads = s.pads) ∧
      (∀ q, q ≠ s.pin.toNat → u.pad q = s.pad q) ∧ u.radio = s.radio ∧ u.work = freeWorking n ∧
      u.inputs = s.inputs

/-- No working register carries a value from one send to the next: what they hold when a send is offered has no effect
on anything the send does or leaves (R30, R37). -/
def Obligations.WorkingRegistersCarryNothingBetweenSends : Prop :=
  ∀ (s : State) (i : Instr) (w : Working), portOpen s = true → isSend i = true → i.wellFormed →
    s.pin.toNat < s.platform.nPins → 150 < s.period.toNat →
    runSteps (commandSteps i s) (offer (encode i) { s with work := w }) =
      runSteps (commandSteps i s) (offer (encode i) s)

/-- R209: with `REPEATS = 0` the guard still runs: after nine steps the trace has the four events of `GUARD_ENTER` and
the two of `GUARD_EXIT`, and no pad has changed. -/
def Obligations.ZeroRepeatsRunOnlyTheGuard : Prop :=
  ∀ (s : State) (i : Instr), portOpen s = true → isSend i = true → i.wellFormed →
    s.pin.toNat < s.platform.nPins → 150 < s.period.toNat → s.repeats = 0 →
    ∃ u, runSteps 9 (offer (encode i) s) = .next u ∧ u.seq = .idle ∧ u.pads = s.pads ∧
      u.trace = s.trace ++
        [.regRead s.platform.addrOpMode s.radio.opMode, .regRead s.platform.addrModul s.radio.modul,
         .regWrite s.platform.addrModul s.platform.valOokContNosync,
         .regWrite s.platform.addrOpMode s.platform.valTx,
         .regWrite s.platform.addrOpMode s.radio.opMode, .regWrite s.platform.addrModul s.radio.modul]

/-- Every send ends (R252): from every state of a send that a run can reach, `IDLE` is reached in at most 10209 steps,
without a fault or a refusal. -/
def Obligations.EverySendReturnsToIdle : Prop :=
  ∀ s : State, Inv s → s.seq ≠ .idle → ∃ n u, n ≤ 10209 ∧ runSteps n s = .next u ∧ u.seq = .idle ∧ u.busy = false

/-- The requested time of a whole send: `REPEATS * (D + 1000 * RDELAY)` microseconds with the datagram's time `D`
(R320), its six register transactions asking for none (R322); the same holds row by row and in one piece. -/
def Obligations.SendRequestsItsDatagramsAndDelays : Prop :=
  ∀ (s : State) (i : Instr), portOpen s = true → isSend i = true → i.wellFormed →
    s.pin.toNat < s.platform.nPins → 150 < s.period.toNat →
    ∃ u es, runSteps (commandSteps i s) (offer (encode i) s) = .next u ∧ bigStep i s = .next u ∧
      u.trace = s.trace ++ es ∧ (es.filter isRadioEvent).length = 6 ∧
      requestedUs es = s.repeats.toNat * (datagramUs s.period.toNat i + 1000 * s.rdelay.toNat)

/-- R287: the inter-repeat delay is one event `DelayMs(RDELAY)`, appended for `RDELAY = 0` too, with `RDELAY <= 255`
and of the nominal length `1000 * RDELAY` microseconds; beside the trace the step only counts the datagram. -/
def Obligations.InterRepeatDelayIsRdelayMilliseconds : Prop :=
  ∀ s : State, s.seq = .gap → s.work.repCnt ≠ 0 →
    ∃ t, step s = .next t ∧ s.rdelay.toNat ≤ 255 ∧ t.trace = s.trace ++ [.delayMs s.rdelay.toNat] ∧
      requestedUs t.trace = requestedUs s.trace + 1000 * s.rdelay.toNat ∧
      t = { s with trace := t.trace, work.repCnt := s.work.repCnt - 1, seq := .repTest }

/-- R133: within one call the writes are HIGH, LOW, HIGH, LOW, or HIGH, LOW for a marker; the levels a whole send
writes alternate strictly, from HIGH to LOW. -/
def Obligations.PinLevelsAlternateOverAWholeSend : Prop :=
  (∀ (s t : State) (d1 d2 : Nat),
    pulseNew (d1, d2) s = .next t ∨ pulseOld (d1, d2) s = .next t ∨ pulseCogex (d1, d2) s = .next t →
    ∃ es, t.trace = s.trace ++ es ∧
      pinLevels es = if d1 ≠ 0 then [.high, .low, .high, .low] else [.high, .low]) ∧
  (∀ (s t : State) (i : Instr) (es : List Event), isSend i = true → bigStep i s = .next t → t.trace = s.trace ++ es →
    (pinLevels es).IsChain (· ≠ ·) ∧ (pinLevels es).head?.getD .high = .high ∧
    (pinLevels es).getLast?.getD .low = .low)

/-- The arguments of the delays of a whole command: `1 <= n <= 655500` for `DelayUs` (R131, R286), at most 255 for
`DelayMs` (R287). -/
def Obligations.DelayArgumentsStayInRange : Prop :=
  ∀ (s t : State) (i : Instr) (es : List Event), bigStep i s = .next t → t.trace = s.trace ++ es →
    (∀ n, Event.delayUs n ∈ es → 1 ≤ n ∧ n ≤ 655500) ∧ (∀ n, Event.delayMs n ∈ es → n ≤ 255)

/-- The requested time of one datagram: 278 or 306 periods for NEW (R160), 76 for OLD and COGEX (R176, R191); the
correction does not appear. -/
def Obligations.DatagramRequestedTimeIsAMultipleOfThePeriod : Prop :=
  ∀ (p T : Nat) (frame : Frame) (dim : DimLevel), 150 < T →
    requestedUs (newDatagramEvents p T frame dim) = (if dim = 0 then 278 * T else 306 * T) ∧
    requestedUs (oldDatagramEvents p T frame) = 76 * T ∧
    requestedUs (cogexDatagramEvents p T frame) = 76 * T

/-- The datagrams as strings of symbols: which Frame and dim bits are sent, in which order, and how many symbols
(R105, R117, R118). -/
def Obligations.DatagramsSendTheBitsInProtocolOrder : Prop :=
  ∀ (frame : Frame) (dim : DimLevel),
    (dim = 0 → (newDatagram frame dim).length = 34 ∧
      ∀ k, k < 32 → (newDatagram frame dim)[k + 1]? = some (.bit (frame.getLsbD (31 - k)))) ∧
    (dim ≠ 0 → (newDatagram frame dim).length = 38 ∧
      (∀ k, k < 27 → (newDatagram frame dim)[k + 1]? = some (.bit (frame.getLsbD (31 - k)))) ∧
      (newDatagram frame dim)[28]? = some .dimmer ∧
      (∀ k, k < 4 → (newDatagram frame dim)[k + 29]? = some (.bit (frame.getLsbD (3 - k)))) ∧
      (∀ k, k < 4 → (newDatagram frame dim)[k + 33]? = some (.bit (dim.getLsbD (3 - k))))) ∧
    (newDatagram frame dim).head? = some .start ∧ (newDatagram frame dim).getLast? = some .stop ∧
    (shortDatagram frame).length = 13 ∧ (shortDatagram frame).head? = some .start ∧
    ∀ k, k < 12 → (shortDatagram frame)[k + 1]? = some (.bit (frame.getLsbD k))

/-- The trace is the record of what the block did: a step only adds to it, at its end, and no step changes the platform
(R50, R77, R78). -/
def Obligations.TraceOnlyGrows : Prop :=
  ∀ s t : State, step s = .next t → s.trace <+: t.trace ∧ t.platform = s.platform

end
end

