-- ==== Sys2Proof/Laws/Decode.lean ====
section
/-! SUPPORT. The bits of a field and of a placed value, from which every fact about encoding and decoding follows, and
the disjointness of the opcode table. -/

namespace Sys2Proof

/-- Bit `k` of a placed value. -/
theorem getLsbD_place {n : Nat} (v : BitVec n) (lo k : Nat) :
    (place v lo).getLsbD k = (decide (lo ≤ k) && decide (k < 64) && v.getLsbD (k - lo)) := by
  simp only [place, BitVec.getLsbD_shiftLeft, BitVec.getLsbD_setWidth]
  by_cases h1 : lo ≤ k <;> by_cases h2 : k < 64
  · simp [h1, h2, show ¬k < lo by omega, show k - lo < 64 by omega]
  · simp [h2]
  · simp [h1, show k < lo by omega]
  · simp [h2]

/-- Bit `j` of a field. -/
theorem getLsbD_field (w : CommandWord) (lo len j : Nat) :
    (field w lo len).getLsbD j = (decide (j < len) && w.getLsbD (lo + j)) := by
  simp [field, BitVec.getLsbD_extractLsb']

/-- A bit of a word, seen through a field that holds it. -/
theorem getLsbD_of_field {w : CommandWord} {lo len k : Nat} {v : BitVec len} (h : field w lo len = v) (h1 : lo ≤ k)
    (h2 : k < lo + len) : w.getLsbD k = v.getLsbD (k - lo) := by
  subst h
  rw [getLsbD_field, Nat.add_sub_cancel' h1]
  simp [show k - lo < len by omega]

/-- The reserved check answers the command exactly when the reserved field is zero. -/
theorem checkReserved_eq_ok {w : CommandWord} {lo len : Nat} {i j : Instr} :
    checkReserved w lo len i = .ok j ↔ field w lo len = 0#len ∧ i = j := by
  unfold checkReserved
  split <;> simp_all

/-- No two rows of the opcode table cover one word: their masks share the opcode bits and their patterns differ there. -/
theorem opcodeTable_opcodes_differ :
    opcodeTable.Pairwise fun a b => a.pattern &&& b.mask ≠ b.pattern &&& a.mask := by decide

/-- What the opcode map of R96 is read from: the opcode of an encoded command. -/
theorem opcodeOf_encode (i : Instr) : opcodeOf (encode i) = match i with
    | .setPin _ => 0x01#8
    | .setTiming _ _ _ => 0x02#8
    | .sendNew _ _ _ _ _ => 0x10#8
    | .sendOld _ _ _ => 0x11#8
    | .sendCogex _ _ _ => 0x12 := by
  cases i <;>
    (apply BitVec.eq_of_getLsbD_eq
     intro k hk
     simp only [opcodeOf, encode, getLsbD_field, getLsbD_place, BitVec.getLsbD_or]
     interval_cases k <;> simp)

end Sys2Proof
end

