-- ==== Sys2Proof/Laws/State.lean ====
section
/-! SUPPORT. What each named update of the state does to each field, so that no proof unfolds a record update. Generated
field by field; every lemma is true by definition. -/

namespace Sys2Proof.Machine

/-! ### `State.emit` -/

@[simp] theorem State.emit_pin (s : State) (es : List Event) : (s.emit es).pin = s.pin := rfl
@[simp] theorem State.emit_period (s : State) (es : List Event) : (s.emit es).period = s.period := rfl
@[simp] theorem State.emit_repeats (s : State) (es : List Event) : (s.emit es).repeats = s.repeats := rfl
@[simp] theorem State.emit_rdelay (s : State) (es : List Event) : (s.emit es).rdelay = s.rdelay := rfl
@[simp] theorem State.emit_busy (s : State) (es : List Event) : (s.emit es).busy = s.busy := rfl
@[simp] theorem State.emit_err (s : State) (es : List Event) : (s.emit es).err = s.err := rfl
@[simp] theorem State.emit_cause (s : State) (es : List Event) : (s.emit es).cause = s.cause := rfl
@[simp] theorem State.emit_seq (s : State) (es : List Event) : (s.emit es).seq = s.seq := rfl
@[simp] theorem State.emit_work (s : State) (es : List Event) : (s.emit es).work = s.work := rfl
@[simp] theorem State.emit_pads (s : State) (es : List Event) : (s.emit es).pads = s.pads := rfl
@[simp] theorem State.emit_radio (s : State) (es : List Event) : (s.emit es).radio = s.radio := rfl
@[simp] theorem State.emit_trace (s : State) (es : List Event) : (s.emit es).trace = s.trace ++ es := rfl
@[simp] theorem State.emit_inputs (s : State) (es : List Event) : (s.emit es).inputs = s.inputs := rfl
@[simp] theorem State.emit_platform (s : State) (es : List Event) : (s.emit es).platform = s.platform := rfl
@[simp] theorem State.emit_freeDraws (s : State) (es : List Event) : (s.emit es).freeDraws = s.freeDraws := rfl
@[simp] theorem State.emit_pad (s : State) (es : List Event) (p : Nat) : (s.emit es).pad p = s.pad p := rfl
@[simp] theorem State.emit_pinValid (s : State) (es : List Event) : (s.emit es).pinValid = s.pinValid := rfl

/-! ### `State.goto` -/

@[simp] theorem State.goto_pin (s : State) (q : Seq) : (s.goto q).pin = s.pin := rfl
@[simp] theorem State.goto_period (s : State) (q : Seq) : (s.goto q).period = s.period := rfl
@[simp] theorem State.goto_repeats (s : State) (q : Seq) : (s.goto q).repeats = s.repeats := rfl
@[simp] theorem State.goto_rdelay (s : State) (q : Seq) : (s.goto q).rdelay = s.rdelay := rfl
@[simp] theorem State.goto_busy (s : State) (q : Seq) : (s.goto q).busy = s.busy := rfl
@[simp] theorem State.goto_err (s : State) (q : Seq) : (s.goto q).err = s.err := rfl
@[simp] theorem State.goto_cause (s : State) (q : Seq) : (s.goto q).cause = s.cause := rfl
@[simp] theorem State.goto_seq (s : State) (q : Seq) : (s.goto q).seq = q := rfl
@[simp] theorem State.goto_work (s : State) (q : Seq) : (s.goto q).work = s.work := rfl
@[simp] theorem State.goto_pads (s : State) (q : Seq) : (s.goto q).pads = s.pads := rfl
@[simp] theorem State.goto_radio (s : State) (q : Seq) : (s.goto q).radio = s.radio := rfl
@[simp] theorem State.goto_trace (s : State) (q : Seq) : (s.goto q).trace = s.trace := rfl
@[simp] theorem State.goto_inputs (s : State) (q : Seq) : (s.goto q).inputs = s.inputs := rfl
@[simp] theorem State.goto_platform (s : State) (q : Seq) : (s.goto q).platform = s.platform := rfl
@[simp] theorem State.goto_freeDraws (s : State) (q : Seq) : (s.goto q).freeDraws = s.freeDraws := rfl
@[simp] theorem State.goto_pad (s : State) (q : Seq) (p : Nat) : (s.goto q).pad p = s.pad p := rfl
@[simp] theorem State.goto_pinValid (s : State) (q : Seq) : (s.goto q).pinValid = s.pinValid := rfl

/-! ### `State.setBitIdx` -/

@[simp] theorem State.setBitIdx_pin (s : State) (i : BitVec 5) : (s.setBitIdx i).pin = s.pin := rfl
@[simp] theorem State.setBitIdx_period (s : State) (i : BitVec 5) : (s.setBitIdx i).period = s.period := rfl
@[simp] theorem State.setBitIdx_repeats (s : State) (i : BitVec 5) : (s.setBitIdx i).repeats = s.repeats := rfl
@[simp] theorem State.setBitIdx_rdelay (s : State) (i : BitVec 5) : (s.setBitIdx i).rdelay = s.rdelay := rfl
@[simp] theorem State.setBitIdx_busy (s : State) (i : BitVec 5) : (s.setBitIdx i).busy = s.busy := rfl
@[simp] theorem State.setBitIdx_err (s : State) (i : BitVec 5) : (s.setBitIdx i).err = s.err := rfl
@[simp] theorem State.setBitIdx_cause (s : State) (i : BitVec 5) : (s.setBitIdx i).cause = s.cause := rfl
@[simp] theorem State.setBitIdx_seq (s : State) (i : BitVec 5) : (s.setBitIdx i).seq = s.seq := rfl
@[simp] theorem State.setBitIdx_work (s : State) (i : BitVec 5) : (s.setBitIdx i).work = { s.work with bitIdx := i } := rfl
@[simp] theorem State.setBitIdx_pads (s : State) (i : BitVec 5) : (s.setBitIdx i).pads = s.pads := rfl
@[simp] theorem State.setBitIdx_radio (s : State) (i : BitVec 5) : (s.setBitIdx i).radio = s.radio := rfl
@[simp] theorem State.setBitIdx_trace (s : State) (i : BitVec 5) : (s.setBitIdx i).trace = s.trace := rfl
@[simp] theorem State.setBitIdx_inputs (s : State) (i : BitVec 5) : (s.setBitIdx i).inputs = s.inputs := rfl
@[simp] theorem State.setBitIdx_platform (s : State) (i : BitVec 5) : (s.setBitIdx i).platform = s.platform := rfl
@[simp] theorem State.setBitIdx_freeDraws (s : State) (i : BitVec 5) : (s.setBitIdx i).freeDraws = s.freeDraws := rfl
@[simp] theorem State.setBitIdx_pad (s : State) (i : BitVec 5) (p : Nat) : (s.setBitIdx i).pad p = s.pad p := rfl
@[simp] theorem State.setBitIdx_pinValid (s : State) (i : BitVec 5) : (s.setBitIdx i).pinValid = s.pinValid := rfl

/-! ### `State.setRepCnt` -/

@[simp] theorem State.setRepCnt_pin (s : State) (n : Byte) : (s.setRepCnt n).pin = s.pin := rfl
@[simp] theorem State.setRepCnt_period (s : State) (n : Byte) : (s.setRepCnt n).period = s.period := rfl
@[simp] theorem State.setRepCnt_repeats (s : State) (n : Byte) : (s.setRepCnt n).repeats = s.repeats := rfl
@[simp] theorem State.setRepCnt_rdelay (s : State) (n : Byte) : (s.setRepCnt n).rdelay = s.rdelay := rfl
@[simp] theorem State.setRepCnt_busy (s : State) (n : Byte) : (s.setRepCnt n).busy = s.busy := rfl
@[simp] theorem State.setRepCnt_err (s : State) (n : Byte) : (s.setRepCnt n).err = s.err := rfl
@[simp] theorem State.setRepCnt_cause (s : State) (n : Byte) : (s.setRepCnt n).cause = s.cause := rfl
@[simp] theorem State.setRepCnt_seq (s : State) (n : Byte) : (s.setRepCnt n).seq = s.seq := rfl
@[simp] theorem State.setRepCnt_work (s : State) (n : Byte) : (s.setRepCnt n).work = { s.work with repCnt := n } := rfl
@[simp] theorem State.setRepCnt_pads (s : State) (n : Byte) : (s.setRepCnt n).pads = s.pads := rfl
@[simp] theorem State.setRepCnt_radio (s : State) (n : Byte) : (s.setRepCnt n).radio = s.radio := rfl
@[simp] theorem State.setRepCnt_trace (s : State) (n : Byte) : (s.setRepCnt n).trace = s.trace := rfl
@[simp] theorem State.setRepCnt_inputs (s : State) (n : Byte) : (s.setRepCnt n).inputs = s.inputs := rfl
@[simp] theorem State.setRepCnt_platform (s : State) (n : Byte) : (s.setRepCnt n).platform = s.platform := rfl
@[simp] theorem State.setRepCnt_freeDraws (s : State) (n : Byte) : (s.setRepCnt n).freeDraws = s.freeDraws := rfl
@[simp] theorem State.setRepCnt_pad (s : State) (n : Byte) (p : Nat) : (s.setRepCnt n).pad p = s.pad p := rfl
@[simp] theorem State.setRepCnt_pinValid (s : State) (n : Byte) : (s.setRepCnt n).pinValid = s.pinValid := rfl

/-! ### `State.setPad` -/

@[simp] theorem State.setPad_pin (s : State) (x : Pad) : (s.setPad x).pin = s.pin := rfl
@[simp] theorem State.setPad_period (s : State) (x : Pad) : (s.setPad x).period = s.period := rfl
@[simp] theorem State.setPad_repeats (s : State) (x : Pad) : (s.setPad x).repeats = s.repeats := rfl
@[simp] theorem State.setPad_rdelay (s : State) (x : Pad) : (s.setPad x).rdelay = s.rdelay := rfl
@[simp] theorem State.setPad_busy (s : State) (x : Pad) : (s.setPad x).busy = s.busy := rfl
@[simp] theorem State.setPad_err (s : State) (x : Pad) : (s.setPad x).err = s.err := rfl
@[simp] theorem State.setPad_cause (s : State) (x : Pad) : (s.setPad x).cause = s.cause := rfl
@[simp] theorem State.setPad_seq (s : State) (x : Pad) : (s.setPad x).seq = s.seq := rfl
@[simp] theorem State.setPad_work (s : State) (x : Pad) : (s.setPad x).work = s.work := rfl
@[simp] theorem State.setPad_pads (s : State) (x : Pad) : (s.setPad x).pads = PadSpace.write s.pads s.pin.toNat x := rfl
@[simp] theorem State.setPad_radio (s : State) (x : Pad) : (s.setPad x).radio = s.radio := rfl
@[simp] theorem State.setPad_trace (s : State) (x : Pad) : (s.setPad x).trace = s.trace := rfl
@[simp] theorem State.setPad_inputs (s : State) (x : Pad) : (s.setPad x).inputs = s.inputs := rfl
@[simp] theorem State.setPad_platform (s : State) (x : Pad) : (s.setPad x).platform = s.platform := rfl
@[simp] theorem State.setPad_freeDraws (s : State) (x : Pad) : (s.setPad x).freeDraws = s.freeDraws := rfl
@[simp] theorem State.setPad_pinValid (s : State) (x : Pad) : (s.setPad x).pinValid = s.pinValid := rfl

/-! ### `regWrite` -/

@[simp] theorem regWrite_pin (r : RadioReg) (v : Byte) (s : State) : (regWrite r v s).pin = s.pin := rfl
@[simp] theorem regWrite_period (r : RadioReg) (v : Byte) (s : State) : (regWrite r v s).period = s.period := rfl
@[simp] theorem regWrite_repeats (r : RadioReg) (v : Byte) (s : State) : (regWrite r v s).repeats = s.repeats := rfl
@[simp] theorem regWrite_rdelay (r : RadioReg) (v : Byte) (s : State) : (regWrite r v s).rdelay = s.rdelay := rfl
@[simp] theorem regWrite_busy (r : RadioReg) (v : Byte) (s : State) : (regWrite r v s).busy = s.busy := rfl
@[simp] theorem regWrite_err (r : RadioReg) (v : Byte) (s : State) : (regWrite r v s).err = s.err := rfl
@[simp] theorem regWrite_cause (r : RadioReg) (v : Byte) (s : State) : (regWrite r v s).cause = s.cause := rfl
@[simp] theorem regWrite_seq (r : RadioReg) (v : Byte) (s : State) : (regWrite r v s).seq = s.seq := rfl
@[simp] theorem regWrite_work (r : RadioReg) (v : Byte) (s : State) : (regWrite r v s).work = s.work := rfl
@[simp] theorem regWrite_pads (r : RadioReg) (v : Byte) (s : State) : (regWrite r v s).pads = s.pads := rfl
@[simp] theorem regWrite_radio (r : RadioReg) (v : Byte) (s : State) : (regWrite r v s).radio = s.radio.set r v := rfl
@[simp] theorem regWrite_trace (r : RadioReg) (v : Byte) (s : State) : (regWrite r v s).trace = s.trace ++ [.regWrite (radioAddr s.platform r) v] := rfl
@[simp] theorem regWrite_inputs (r : RadioReg) (v : Byte) (s : State) : (regWrite r v s).inputs = s.inputs := rfl
@[simp] theorem regWrite_platform (r : RadioReg) (v : Byte) (s : State) : (regWrite r v s).platform = s.platform := rfl
@[simp] theorem regWrite_freeDraws (r : RadioReg) (v : Byte) (s : State) : (regWrite r v s).freeDraws = s.freeDraws := rfl
@[simp] theorem regWrite_pad (r : RadioReg) (v : Byte) (s : State) (p : Nat) : (regWrite r v s).pad p = s.pad p := rfl
@[simp] theorem regWrite_pinValid (r : RadioReg) (v : Byte) (s : State) : (regWrite r v s).pinValid = s.pinValid := rfl

/-! ### `raise` -/

@[simp] theorem raise_pin (c : Cause) (s : State) : (raise c s).pin = s.pin := rfl
@[simp] theorem raise_period (c : Cause) (s : State) : (raise c s).period = s.period := rfl
@[simp] theorem raise_repeats (c : Cause) (s : State) : (raise c s).repeats = s.repeats := rfl
@[simp] theorem raise_rdelay (c : Cause) (s : State) : (raise c s).rdelay = s.rdelay := rfl
@[simp] theorem raise_busy (c : Cause) (s : State) : (raise c s).busy = s.busy := rfl
@[simp] theorem raise_err (c : Cause) (s : State) : (raise c s).err = true := rfl
@[simp] theorem raise_cause (c : Cause) (s : State) : (raise c s).cause = c := rfl
@[simp] theorem raise_seq (c : Cause) (s : State) : (raise c s).seq = s.seq := rfl
@[simp] theorem raise_work (c : Cause) (s : State) : (raise c s).work = s.work := rfl
@[simp] theorem raise_pads (c : Cause) (s : State) : (raise c s).pads = s.pads := rfl
@[simp] theorem raise_radio (c : Cause) (s : State) : (raise c s).radio = s.radio := rfl
@[simp] theorem raise_trace (c : Cause) (s : State) : (raise c s).trace = s.trace := rfl
@[simp] theorem raise_inputs (c : Cause) (s : State) : (raise c s).inputs = s.inputs := rfl
@[simp] theorem raise_platform (c : Cause) (s : State) : (raise c s).platform = s.platform := rfl
@[simp] theorem raise_freeDraws (c : Cause) (s : State) : (raise c s).freeDraws = s.freeDraws := rfl
@[simp] theorem raise_pad (c : Cause) (s : State) (p : Nat) : (raise c s).pad p = s.pad p := rfl
@[simp] theorem raise_pinValid (c : Cause) (s : State) : (raise c s).pinValid = s.pinValid := rfl

/-! ### `performed` -/

@[simp] theorem performed_pin (s : State) : (performed s).pin = s.pin := rfl
@[simp] theorem performed_period (s : State) : (performed s).period = s.period := rfl
@[simp] theorem performed_repeats (s : State) : (performed s).repeats = s.repeats := rfl
@[simp] theorem performed_rdelay (s : State) : (performed s).rdelay = s.rdelay := rfl
@[simp] theorem performed_busy (s : State) : (performed s).busy = s.busy := rfl
@[simp] theorem performed_err (s : State) : (performed s).err = false := rfl
@[simp] theorem performed_cause (s : State) : (performed s).cause = .noFault := rfl
@[simp] theorem performed_seq (s : State) : (performed s).seq = s.seq := rfl
@[simp] theorem performed_work (s : State) : (performed s).work = s.work := rfl
@[simp] theorem performed_pads (s : State) : (performed s).pads = s.pads := rfl
@[simp] theorem performed_radio (s : State) : (performed s).radio = s.radio := rfl
@[simp] theorem performed_trace (s : State) : (performed s).trace = s.trace := rfl
@[simp] theorem performed_inputs (s : State) : (performed s).inputs = s.inputs := rfl
@[simp] theorem performed_platform (s : State) : (performed s).platform = s.platform := rfl
@[simp] theorem performed_freeDraws (s : State) : (performed s).freeDraws = s.freeDraws := rfl
@[simp] theorem performed_pad (s : State) (p : Nat) : (performed s).pad p = s.pad p := rfl
@[simp] theorem performed_pinValid (s : State) : (performed s).pinValid = s.pinValid := rfl

/-! ### The operations that only emit -/

@[simp] theorem regRead_eq (r : RadioReg) (s : State) :
    regRead r s = s.emit [.regRead (radioAddr s.platform r) (regValue r s)] := rfl
@[simp] theorem delayUs_eq (n : Nat) (s : State) : delayUs n s = s.emit [.delayUs n] := rfl
@[simp] theorem delayMs_eq (n : Nat) (s : State) : delayMs n s = s.emit [.delayMs n] := rfl

/-! ### Composition -/

@[simp] theorem State.emit_emit (s : State) (a b : List Event) : (s.emit a).emit b = s.emit (a ++ b) := by
  simp [State.emit]
@[simp] theorem State.emit_nil (s : State) : s.emit [] = s := by simp [State.emit]
@[simp] theorem State.goto_goto (s : State) (p q : Seq) : (s.goto p).goto q = s.goto q := rfl

/-! ### Results -/

@[simp] theorem andThen_next (s : State) (f : State → Result) : andThen (.next s) f = f s := rfl
@[simp] theorem andThen_fault (e : Fault) (f : State → Result) : andThen (.fault e) f = .fault e := rfl
@[simp] theorem andThen_refused (e : Refusal) (f : State → Result) : andThen (.refused e) f = .refused e := rfl

/-- A composed operation answers a next state exactly when both parts do. -/
theorem andThen_eq_next {r : Result} {f : State → Result} {t : State} :
    andThen r f = .next t ↔ ∃ s, r = .next s ∧ f s = .next t := by
  cases r <;> simp [andThen]

/-! ### The radio cells -/

@[simp] theorem Radio.get_set_same (m : Radio) (r : RadioReg) (v : Byte) : (m.set r v).get r = v := by cases r <;> rfl
theorem Radio.get_set_other (m : Radio) {r q : RadioReg} (v : Byte) (h : q ≠ r) : (m.set r v).get q = m.get q := by
  cases r <;> cases q <;> first | rfl | exact absurd rfl h
@[simp] theorem Radio.set_opMode (m : Radio) (v : Byte) : m.set .opMode v = ⟨v, m.modul⟩ := rfl
@[simp] theorem Radio.set_modul (m : Radio) (v : Byte) : m.set .modul v = ⟨m.opMode, v⟩ := rfl

/-- The two radio registers have different addresses (R74). -/
theorem radioAddr_injective (P : Config.Platform) : Function.Injective (radioAddr P) := by
  intro a b h
  cases a <;> cases b <;> simp [radioAddr, Config.Platform.addrModul] at h ⊢ <;> split at h <;> omega

end Sys2Proof.Machine
end

