-- ==== Sys2Proof/Laws/PadSpace.lean ====
section
/-! SUPPORT. The laws of the pad space: a read after a write, the pads a write leaves alone, and that every operation
keeps the canonical form. The first two hold of every list, canonical or not. -/

namespace Sys2Proof.Machine

theorem PadSpace.read_forget_same (m : PadSpace) (p : Nat) : PadSpace.read (PadSpace.forget m p) p = Pad.atReset := by
  induction m with
  | nil => rfl
  | cons e m ih =>
    obtain ⟨q, y⟩ := e
    by_cases h : q = p <;> simp_all [PadSpace.forget, PadSpace.read]

theorem PadSpace.read_forget_other (m : PadSpace) {p r : Nat} (h : r ≠ p) :
    PadSpace.read (PadSpace.forget m p) r = PadSpace.read m r := by
  induction m with
  | nil => rfl
  | cons e m ih =>
    obtain ⟨q, y⟩ := e
    by_cases hq : q = p
    · subst hq
      simpa [PadSpace.forget, PadSpace.read, h.symm] using ih
    · by_cases hr : q = r <;> simp_all [PadSpace.forget, PadSpace.read]

theorem PadSpace.forget_keys {m : PadSpace} {p : Nat} : ∀ e ∈ PadSpace.forget m p, e ∈ m ∧ e.1 ≠ p := by
  simp [PadSpace.forget]

theorem PadSpace.forget_forget (m : PadSpace) (p : Nat) :
    PadSpace.forget (PadSpace.forget m p) p = PadSpace.forget m p := by
  simp [PadSpace.forget]

theorem PadSpace.mem_insert {m : PadSpace} {p : Nat} {x : Pad} {e : Nat × Pad} :
    e ∈ PadSpace.insert p x m ↔ e = (p, x) ∨ e ∈ m := by
  induction m with
  | nil => simp [PadSpace.insert]
  | cons a m ih =>
    obtain ⟨q, y⟩ := a
    simp only [PadSpace.insert]
    split <;> simp [ih, or_left_comm]

theorem PadSpace.read_insert_same {m : PadSpace} {p : Nat} (x : Pad) (h : ∀ e ∈ m, e.1 ≠ p) :
    PadSpace.read (PadSpace.insert p x m) p = x := by
  induction m with
  | nil => simp [PadSpace.insert, PadSpace.read]
  | cons a m ih =>
    obtain ⟨q, y⟩ := a
    simp only [List.forall_mem_cons] at h
    simp only [PadSpace.insert]
    split
    · simp [PadSpace.read]
    · simpa [PadSpace.read, h.1] using ih h.2

theorem PadSpace.read_insert_other (m : PadSpace) {p r : Nat} (x : Pad) (h : r ≠ p) :
    PadSpace.read (PadSpace.insert p x m) r = PadSpace.read m r := by
  induction m with
  | nil => simp [PadSpace.insert, PadSpace.read, h.symm]
  | cons a m ih =>
    obtain ⟨q, y⟩ := a
    simp only [PadSpace.insert]
    split
    · simp [PadSpace.read, h.symm]
    · simp [PadSpace.read, ih]

theorem PadSpace.forget_insert {m : PadSpace} {p : Nat} (x : Pad) :
    PadSpace.forget (PadSpace.insert p x m) p = PadSpace.forget m p := by
  induction m with
  | nil => simp [PadSpace.insert, PadSpace.forget]
  | cons a m ih =>
    obtain ⟨q, y⟩ := a
    simp only [PadSpace.insert]
    split
    · simp [PadSpace.forget]
    · by_cases hq : q = p <;> simp_all [PadSpace.forget]

/-- A pad reads as what was last written to it. -/
@[simp] theorem PadSpace.read_write_same (m : PadSpace) (p : Nat) (x : Pad) :
    PadSpace.read (PadSpace.write m p x) p = x := by
  unfold PadSpace.write
  split
  · next h => rw [h, PadSpace.read_forget_same]
  · exact PadSpace.read_insert_same x fun e he => (PadSpace.forget_keys e he).2

/-- A write leaves every other pad alone. -/
theorem PadSpace.read_write_other (m : PadSpace) {p r : Nat} (x : Pad) (h : r ≠ p) :
    PadSpace.read (PadSpace.write m p x) r = PadSpace.read m r := by
  unfold PadSpace.write
  split
  · exact PadSpace.read_forget_other m h
  · rw [PadSpace.read_insert_other _ x h, PadSpace.read_forget_other m h]

/-- Of two writes to one pad the second counts. -/
@[simp] theorem PadSpace.write_write (m : PadSpace) (p : Nat) (x y : Pad) :
    PadSpace.write (PadSpace.write m p x) p y = PadSpace.write m p y := by
  have h : PadSpace.forget (PadSpace.write m p x) p = PadSpace.forget m p := by
    unfold PadSpace.write
    split
    · exact PadSpace.forget_forget m p
    · rw [PadSpace.forget_insert, PadSpace.forget_forget]
  show (if y = Pad.atReset then PadSpace.forget (PadSpace.write m p x) p
    else PadSpace.insert p y (PadSpace.forget (PadSpace.write m p x) p)) = _
  rw [h]
  rfl

theorem PadSpace.wf_nil : PadSpace.wf [] := by simp [PadSpace.wf]

theorem PadSpace.wf_forget {m : PadSpace} (p : Nat) (h : PadSpace.wf m) : PadSpace.wf (PadSpace.forget m p) :=
  ⟨h.1.filter _, fun e he => h.2 e (PadSpace.forget_keys e he).1⟩

theorem PadSpace.wf_insert {m : PadSpace} {p : Nat} {x : Pad} (h : PadSpace.wf m) (hp : ∀ e ∈ m, e.1 ≠ p)
    (hx : x ≠ Pad.atReset) : PadSpace.wf (PadSpace.insert p x m) := by
  refine ⟨?_, fun e he => ?_⟩
  · obtain ⟨hs, -⟩ := h
    induction m with
    | nil => simp [PadSpace.insert]
    | cons a m ih =>
      obtain ⟨q, y⟩ := a
      rw [List.pairwise_cons] at hs
      simp only [List.forall_mem_cons] at hp
      simp only [PadSpace.insert]
      split
      · next hlt =>
        refine List.pairwise_cons.2 ⟨fun e he => ?_, List.pairwise_cons.2 hs⟩
        rcases List.mem_cons.1 he with rfl | he
        · exact hlt
        · exact Nat.lt_trans hlt (hs.1 e he)
      · next hge =>
        refine List.pairwise_cons.2 ⟨fun e he => ?_, ih hp.2 hs.2⟩
        rcases PadSpace.mem_insert.1 he with rfl | he
        · have := hp.1
          show q < p
          omega
        · exact hs.1 e he
  · rcases PadSpace.mem_insert.1 he with rfl | he
    · exact hx
    · exact h.2 e he

/-- A write keeps the canonical form. -/
theorem PadSpace.wf_write {m : PadSpace} (p : Nat) (x : Pad) (h : PadSpace.wf m) : PadSpace.wf (PadSpace.write m p x) := by
  unfold PadSpace.write
  split
  · exact PadSpace.wf_forget p h
  · next hx => exact PadSpace.wf_insert (PadSpace.wf_forget p h) (fun e he => (PadSpace.forget_keys e he).2) hx

/-- A write lists no pad but those listed before and its own. -/
theorem PadSpace.mem_write {m : PadSpace} {p : Nat} {x : Pad} {e : Nat × Pad} (h : e ∈ PadSpace.write m p x) :
    e.1 = p ∨ e ∈ m := by
  unfold PadSpace.write at h
  split at h
  · exact .inr (PadSpace.forget_keys e h).1
  · rcases PadSpace.mem_insert.1 h with rfl | h
    · exact .inl rfl
    · exact .inr (PadSpace.forget_keys e h).1

/-! ### The pads of a state -/

@[simp] theorem State.pad_setPad_same (s : State) (x : Pad) : (s.setPad x).pad s.pin.toNat = x := by
  simp [State.pad]

theorem State.pad_setPad_other (s : State) (x : Pad) {q : Nat} (h : q ≠ s.pin.toNat) :
    (s.setPad x).pad q = s.pad q := PadSpace.read_write_other s.pads x h

@[simp] theorem State.setPad_setPad (s : State) (x y : Pad) : (s.setPad x).setPad y = s.setPad y := by
  simp [State.setPad]

@[simp] theorem State.setPad_emit (s : State) (es : List Event) (x : Pad) :
    (s.emit es).setPad x = (s.setPad x).emit es := rfl

end Sys2Proof.Machine
end

