-- ==== Sys2Proof/Laws/Ops.lean ====
section
/-! SUPPORT. One lemma per shared operation that says everything it can do: pad accesses, the Pulse Primitive, the
symbols of the three protocols, and the acceptance of a send. -/

namespace Sys2Proof.Machine

theorem pinValid_iff (s : State) : s.pinValid = true ↔ s.pin.toNat < s.platform.nPins := by
  simp [State.pinValid]

/-- There is at least one pad (R9). -/
theorem nPins_pos (P : Config.Platform) : 0 < P.nPins := Nat.succ_pos _

/-- There are at most 256 pads (R9). -/
theorem nPins_le (P : Config.Platform) : P.nPins ≤ 256 := P.lastPin.isLt

theorem pinMode_eq {s : State} (h : s.pinValid = true) :
    pinMode s = .next ((s.setPad { s.pad s.pin.toNat with dir := .output }).emit [.pinMode s.pin.toNat]) := by
  simp [pinMode, h]

theorem pinMode_refused {s : State} (h : s.pinValid = false) : pinMode s = .refused .invalidPin := by
  simp [pinMode, h]

theorem pinWrite_eq {s : State} (l : Level) (h : s.pinValid = true) :
    pinWrite l s = .next ((s.setPad { s.pad s.pin.toNat with lvl := l }).emit [.pinWrite s.pin.toNat l]) := by
  simp [pinWrite, h]

theorem pinWrite_refused {s : State} (l : Level) (h : s.pinValid = false) :
    pinWrite l s = .refused .invalidPin := by
  simp [pinWrite, h]

@[simp] theorem State.pulsed_pinValid (d : Nat × Nat) (s : State) : (s.pulsed d).pinValid = s.pinValid := rfl
@[simp] theorem State.pulsed_period (d : Nat × Nat) (s : State) : (s.pulsed d).period = s.period := rfl
@[simp] theorem State.pulsed_work (d : Nat × Nat) (s : State) : (s.pulsed d).work = s.work := rfl

/-- One HIGH and LOW pair on a pad that exists. -/
theorem pulsePhase_eq {s : State} (d : Nat) (h : s.pinValid = true) :
    pulsePhase d s = .next
      ((s.setPad { s.pad s.pin.toNat with lvl := .low }).emit (phaseEvents s.pin.toNat s.period.toNat d)) := by
  unfold pulsePhase
  rw [pinWrite_eq _ h]
  simp only [andThen_next, delayUs_eq]
  rw [pinWrite_eq _ (by simpa using h)]
  simp [State.setPad, State.emit, State.pad, phaseEvents]

/-- A Pulse Primitive call inside a send: it cannot fail there (R279). -/
theorem pulse_eq {s : State} (d1 d2 : Nat) (h : s.pinValid = true) (hT : Config.correctionUs < s.period.toNat) :
    pulse d1 d2 s = .next (s.pulsed (d1, d2)) := by
  unfold pulse
  rw [if_neg (Nat.not_le.2 hT)]
  by_cases hd : d1 = 0
  · subst hd
    simp [pulsePhase_eq _ h, State.pulsed, pulseEvents]
  · rw [if_neg hd, pulsePhase_eq _ h, andThen_next, pulsePhase_eq _ (by simpa using h)]
    simp [State.setPad, State.emit, State.pad, State.pulsed, pulseEvents, hd]

/-- Everything a Pulse Primitive call can do, in any state. -/
theorem pulse_cases (d1 d2 : Nat) (s : State) :
    (s.period.toNat ≤ Config.correctionUs ∧ pulse d1 d2 s = .fault .holdUnderflow) ∨
    (Config.correctionUs < s.period.toNat ∧ s.pinValid = false ∧ pulse d1 d2 s = .refused .invalidPin) ∨
    (Config.correctionUs < s.period.toNat ∧ s.pinValid = true ∧ pulse d1 d2 s = .next (s.pulsed (d1, d2))) := by
  rcases Nat.lt_or_ge Config.correctionUs s.period.toNat with hT | hT
  · cases h : s.pinValid
    · refine .inr (.inl ⟨hT, rfl, ?_⟩)
      simp [pulse, Nat.not_le.2 hT, pulsePhase, pinWrite_refused _ h]
    · exact .inr (.inr ⟨hT, rfl, pulse_eq d1 d2 h hT⟩)
  · exact .inl ⟨hT, by simp [pulse, hT]⟩

/-- A Pulse Primitive call that answers a next state leaves exactly its own effect. -/
theorem pulse_next {d1 d2 : Nat} {s t : State} (h : pulse d1 d2 s = .next t) :
    Config.correctionUs < s.period.toNat ∧ s.pinValid = true ∧ t = s.pulsed (d1, d2) := by
  obtain ⟨-, e⟩ | ⟨-, -, e⟩ | ⟨hT, hp, e⟩ := pulse_cases d1 d2 s
  · simp [e] at h
  · simp [e] at h
  · exact ⟨hT, hp, by simpa [e] using h.symm⟩

theorem emitNew_eq {s : State} (y : NewSymbol) (h : s.pinValid = true) (hT : Config.correctionUs < s.period.toNat) :
    emitNew y s = .next (s.pulsed (newDurations s.period.toNat y)) := pulse_eq _ _ h hT
theorem emitOld_eq {s : State} (y : ShortSymbol) (h : s.pinValid = true) (hT : Config.correctionUs < s.period.toNat) :
    emitOld y s = .next (s.pulsed (oldDurations s.period.toNat y)) := pulse_eq _ _ h hT
theorem emitCogex_eq {s : State} (y : ShortSymbol) (h : s.pinValid = true)
    (hT : Config.correctionUs < s.period.toNat) :
    emitCogex y s = .next (s.pulsed (cogexDurations s.period.toNat y)) := pulse_eq _ _ h hT

theorem emitNew_next {y : NewSymbol} {s t : State} (h : emitNew y s = .next t) :
    t = s.pulsed (newDurations s.period.toNat y) := (pulse_next h).2.2
theorem emitOld_next {y : ShortSymbol} {s t : State} (h : emitOld y s = .next t) :
    t = s.pulsed (oldDurations s.period.toNat y) := (pulse_next h).2.2
theorem emitCogex_next {y : ShortSymbol} {s t : State} (h : emitCogex y s = .next t) :
    t = s.pulsed (cogexDurations s.period.toNat y) := (pulse_next h).2.2

/-- A call leaves pad `PIN` LOW with its direction (R136), -/
@[simp] theorem State.pad_pulsed_same (d : Nat × Nat) (s : State) :
    (s.pulsed d).pad s.pin.toNat = { s.pad s.pin.toNat with lvl := .low } := by
  simp [State.pulsed]

/-- and every other pad alone (R48). -/
theorem State.pad_pulsed_other (d : Nat × Nat) (s : State) {q : Nat} (h : q ≠ s.pin.toNat) :
    (s.pulsed d).pad q = s.pad q := by
  simp [State.pulsed, State.pad_setPad_other _ _ h]

/-- Two calls in a row: the events follow one another and the pad is written once. -/
theorem State.pulsed_pulsed (d e : Nat × Nat) (s : State) :
    (s.pulsed d).pulsed e = (s.setPad { s.pad s.pin.toNat with lvl := .low }).emit
      (pulseEvents s.pin.toNat s.period.toNat d ++ pulseEvents s.pin.toNat s.period.toNat e) := by
  simp [State.pulsed, State.setPad, State.emit, State.pad]

/-- Everything the acceptance of a send can do. -/
theorem beginSend_cases (p : Proto) (fields : Option Cause) (frame : Frame) (dim : DimLevel) (s : State) :
    (s.pinValid = false ∧ beginSend p fields frame dim s = .refused .invalidPin) ∨
    (s.pinValid = true ∧ ∃ c, sendFault fields s = some c ∧ beginSend p fields frame dim s = .next (raise c s)) ∨
    (s.pinValid = true ∧ sendFault fields s = none ∧
      beginSend p fields frame dim s = .next (acceptSend p frame dim s)) := by
  unfold beginSend
  cases s.pinValid
  · simp
  · cases sendFault fields s <;> simp

/-- A send raises no fault exactly when its fields are legal and the period exceeds the correction (R270, R273). -/
theorem sendFault_eq_none {fields : Option Cause} {s : State} :
    sendFault fields s = none ↔ fields = none ∧ Config.correctionUs < s.period.toNat := by
  cases fields <;> simp [sendFault]

/-- No send raises the cause `noFault` or `IllegalCommand`. -/
theorem sendFault_ne_noFault {fields : Option Cause} {s : State} (h : fields ≠ some .noFault) :
    sendFault fields s ≠ some .noFault := by
  cases fields with
  | some c => simpa [sendFault] using h
  | none => simp only [sendFault]; split <;> simp

end Sys2Proof.Machine
end

