-- ==== Sys2Proof/Laws/PerInstr.lean ====
section
/-! SUPPORT. The statements made of every command, one lemma per constructor of `Instr`. -/

namespace Sys2Proof.Laws

/-- The command word of a command belongs to the row of its mnemonic in the match and mask table of R97. -/
def EncodeMatchesRow.Statement (i : Instr) : Prop :=
  ∃ r ∈ opcodeTable, r.mnemonic = i.mnemonic ∧ r.covers (encode i) = true

/-- A word belongs to a row when it agrees with it bit by bit. -/
theorem covers_of_bits {r : OpcodeRow} {w : CommandWord}
    (h : ∀ k, k < 64 → (w.getLsbD k && r.mask.getLsbD k) = r.pattern.getLsbD k) : r.covers w = true := by
  simp only [OpcodeRow.covers, beq_iff_eq]
  apply BitVec.eq_of_getLsbD_eq
  intro k hk
  rw [BitVec.getLsbD_and, h k hk]

theorem EncodeMatchesRow.setPin (pin : Byte) : EncodeMatchesRow.Statement (.setPin pin) := by
  refine ⟨⟨"SETPIN", _, _⟩, List.mem_cons_self .., rfl, covers_of_bits fun k hk => ?_⟩
  simp only [encode, BitVec.getLsbD_or, getLsbD_place]
  interval_cases k <;> simp

theorem EncodeMatchesRow.setTiming (period : Period) (repeats rdelay : Byte) :
    EncodeMatchesRow.Statement (.setTiming period repeats rdelay) := by
  refine ⟨⟨"SETTIMING", 0x0200000000000000#64, 0xFFFFFFFF00000000#64⟩, by decide, rfl, covers_of_bits fun k hk => ?_⟩
  simp only [encode, BitVec.getLsbD_or, getLsbD_place]
  interval_cases k <;> simp

theorem EncodeMatchesRow.sendNew (addr : BitVec 32) (unit : Byte) (on group : Bool) (dim : Byte) :
    EncodeMatchesRow.Statement (.sendNew addr unit on group dim) := by
  refine ⟨⟨"SENDNEW", 0x1000000000000000#64, 0xFFFC000000000000#64⟩, by decide, rfl, covers_of_bits fun k hk => ?_⟩
  simp only [encode, BitVec.getLsbD_or, getLsbD_place]
  interval_cases k <;> simp

theorem EncodeMatchesRow.sendOld (house unit : Byte) (on : Bool) :
    EncodeMatchesRow.Statement (.sendOld house unit on) := by
  refine ⟨⟨"SENDOLD", 0x1100000000000000#64, 0xFFFFFFFFFFFE0000#64⟩, by decide, rfl, covers_of_bits fun k hk => ?_⟩
  simp only [encode, BitVec.getLsbD_or, getLsbD_place]
  interval_cases k <;> simp

theorem EncodeMatchesRow.sendCogex (house unit : Byte) (on : Bool) :
    EncodeMatchesRow.Statement (.sendCogex house unit on) := by
  refine ⟨⟨"SENDCOGEX", 0x1200000000000000#64, 0xFFFFFFFFFFFE0000#64⟩, by decide, rfl, covers_of_bits fun k hk => ?_⟩
  simp only [encode, BitVec.getLsbD_or, getLsbD_place]
  interval_cases k <;> simp

end Sys2Proof.Laws
end

