-- ==== Sys2Proof/Laws/Step.lean ====
section
/-! SUPPORT. What a step can do, said once: which of its two halves runs, everything an accepted command can leave, and
the list functions over traces. -/

namespace Sys2Proof

open Machine

theorem portOpen_iff {s : State} : portOpen s = true ↔ s.seq = .idle ∧ s.busy = false := by
  simp [portOpen]

/-- With the port open a step takes the next move of the outside world. -/
theorem step_of_portOpen {s : State} (h : portOpen s = true) : step s = takeInput s := by
  simp [step, stepOnce, h]

/-- With the port closed a step fires the sequencer's row. -/
theorem step_of_portClosed {s : State} (h : portOpen s = false) : step s = fireRow s := by
  simp [step, stepOnce, h]

/-- During a send the port is closed. -/
theorem portClosed_of_seq {s : State} (h : s.seq ≠ .idle) : portOpen s = false := by
  simp [portOpen, h]

theorem runSteps_zero (s : State) : runSteps 0 s = .next s := rfl

/-- One step of a run. -/
theorem runSteps_succ (n : Nat) (s : State) : runSteps (n + 1) s = andThen (step s) (runSteps n) := by
  simp only [runSteps, Host.Core.run, show core.step = step from rfl]
  cases step s <;> rfl

/-- A run is its first steps, then the rest. -/
theorem runSteps_add (m n : Nat) (s : State) : runSteps (m + n) s = andThen (runSteps m s) (runSteps n) := by
  induction m generalizing s with
  | zero => simp [runSteps_zero]
  | succ m ih =>
    rw [Nat.succ_add, runSteps_succ, runSteps_succ]
    cases step s <;> simp [ih]

/-- The state SETPIN leaves (R215). -/
def pinSelected (pin : Byte) (s : State) : State :=
  { s with
    pin := pin
    pads := PadSpace.write s.pads pin.toNat ⟨.output, .low⟩
    trace := s.trace ++ [.pinMode pin.toNat, .pinWrite pin.toNat .low]
    err := false
    cause := .noFault }

/-- Everything SETPIN can do: the two pad operations fold into one write of the pad. -/
theorem execSetPin_cases (pin : Byte) (s : State) :
    (s.platform.nPins ≤ pin.toNat ∧ execSetPin pin s = .refused .invalidPin) ∨
    (pin.toNat < s.platform.nPins ∧ execSetPin pin s = .next (pinSelected pin s)) := by
  rcases Nat.lt_or_ge pin.toNat s.platform.nPins with h | h
  · have hv : ({ s with pin := pin } : State).pinValid = true := by simpa [State.pinValid] using h
    refine .inr ⟨h, ?_⟩
    rw [execSetPin, pinMode_eq hv, andThen_next, pinWrite_eq _ (by simpa using hv)]
    simp [performed, State.setPad, State.emit, State.pad, pinSelected]
  · have hv : ({ s with pin := pin } : State).pinValid = false := by simpa [State.pinValid] using h
    exact .inl ⟨h, by rw [execSetPin, pinMode_refused hv, andThen_refused]⟩

/-- Everything a send can leave: a fault report other than `noFault`, or an accepted send. -/
theorem beginSend_next {p : Proto} {fields : Option Cause} {frame : Frame} {dim : DimLevel} {s t : State}
    (hf : fields ≠ some .noFault) (h : beginSend p fields frame dim s = .next t) :
    s.pinValid = true ∧
      ((∃ c, c ≠ .noFault ∧ t = raise c s) ∨
        (fields = none ∧ Config.correctionUs < s.period.toNat ∧ t = acceptSend p frame dim s)) := by
  obtain ⟨-, e⟩ | ⟨hv, c, hc, e⟩ | ⟨hv, hn, e⟩ := beginSend_cases p fields frame dim s
  · simp [e] at h
  · refine ⟨hv, .inl ⟨c, ?_, by simpa [e] using h.symm⟩⟩
    rintro rfl
    exact sendFault_ne_noFault hf hc
  · obtain ⟨hf, hT⟩ := sendFault_eq_none.1 hn
    exact ⟨hv, .inr ⟨hf, hT, by simpa [e] using h.symm⟩⟩

theorem newFieldFault_ne_noFault (addr : BitVec 32) (unit : Byte) (group : Bool) (dim : Byte) :
    newFieldFault addr unit group dim ≠ some .noFault := by
  unfold newFieldFault; repeat' split
  all_goals simp

theorem oldFieldFault_ne_noFault (house unit : Byte) : oldFieldFault house unit ≠ some .noFault := by
  unfold oldFieldFault; repeat' split
  all_goals simp

theorem cogexFieldFault_ne_noFault (house unit : Byte) : cogexFieldFault house unit ≠ some .noFault := by
  unfold cogexFieldFault; repeat' split
  all_goals simp

/-- Everything an accepted word can leave: an illegal word's report, or what the command it decodes to leaves. -/
theorem acceptWord_next {w : CommandWord} {s t : State} (h : acceptWord w s = .next t) :
    (∃ e, decode w = .error e ∧ t = raise .illegal s) ∨ ∃ i, decode w = .ok i ∧ exec i s = .next t := by
  unfold acceptWord at h
  split at h
  · next hd => exact .inr ⟨_, hd, h⟩
  · next hd => exact .inl ⟨_, hd, by simpa using h.symm⟩

@[simp] theorem requestedUs_nil : requestedUs [] = 0 := rfl
@[simp] theorem requestedUs_cons (e : Event) (es : List Event) :
    requestedUs (e :: es) = nominalUs e + requestedUs es := rfl
@[simp] theorem nominalUs_delayUs (n : Nat) : nominalUs (.delayUs n) = n := rfl
@[simp] theorem nominalUs_delayMs (n : Nat) : nominalUs (.delayMs n) = 1000 * n := rfl
@[simp] theorem nominalUs_regRead (a : Nat) (v : Byte) : nominalUs (.regRead a v) = 0 := rfl
@[simp] theorem nominalUs_regWrite (a : Nat) (v : Byte) : nominalUs (.regWrite a v) = 0 := rfl
@[simp] theorem nominalUs_pinMode (p : Nat) : nominalUs (.pinMode p) = 0 := rfl
@[simp] theorem nominalUs_pinWrite (p : Nat) (l : Level) : nominalUs (.pinWrite p l) = 0 := rfl

/-- The requested time of a trace is additive. -/
theorem requestedUs_append (a b : List Event) : requestedUs (a ++ b) = requestedUs a + requestedUs b := by
  induction a with
  | nil => simp
  | cons e a ih => simp [ih, Nat.add_assoc]

/-- Repeating a trace multiplies its requested time. -/
theorem requestedUs_replicate (n : Nat) (a : List Event) :
    requestedUs (List.replicate n a).flatten = n * requestedUs a := by
  induction n with
  | zero => simp
  | succ n ih => simp [List.replicate_succ, requestedUs_append, ih, Nat.succ_mul, Nat.add_comm]

/-- The levels of a trace follow one another. -/
theorem pinLevels_append (a b : List Event) : pinLevels (a ++ b) = pinLevels a ++ pinLevels b := by
  induction a with
  | nil => rfl
  | cons e a ih => cases e <;> simp [pinLevels, ih]

/-- The number of events of a Pulse Primitive call: 8, or 4 for a marker (R130). -/
theorem pulseEvents_length (p T : Nat) (d : Nat × Nat) :
    (pulseEvents p T d).length = if d.1 = 0 then 4 else 8 := by
  by_cases h : d.1 = 0 <;> simp [pulseEvents, phaseEvents, h]

end Sys2Proof
end

