-- ==== Sys2Proof/Tests/Slice0.lean ====
section
/-! SUPPORT. The model's own tests and the witnesses of its statements' hypotheses. Every expected value of a test is
one of the spec's test vectors (`95_test_vectors.md`), whose number the test's comment names. -/

namespace Sys2Proof.Tests

open Sys2Proof Machine

/-! ## A small machine -/

/-- The platform of the spec's programs: `NPINS = 8`, no fixed pattern bits (Part C of the test vectors; the radio
values are those of its example instantiation). -/
def platform : Config.Platform where
  lastPin := 7
  addrOpMode := 0x01
  addrModulAmongOthers := 0x01
  valTx := 0x0C
  valOokContNosync := 0x68
  oldFixedBits := 0
  cogexFixedBits := 0
  resetPin := 0
  resetPeriodUs := 0
  resetRepeats := 0
  resetDelayMs := 0

/-- Idle on pad 3 with the period `T` and `n` repeats, the radio at `0x04, 0x00` (vector B8.4). -/
def idleAt (T : Period) (n : Byte) : State :=
  { State.resetOn platform ⟨0x04, 0x00⟩ with
    pin := 3, period := T, repeats := n, rdelay := 10, work := ⟨0, 0, .new, 0, 0, 0, 0⟩ }

/-- Idle with the period of most vectors. -/
def idle : State := idleAt 250 1

/-- Idle with `w` offered. -/
def offered (w : CommandWord) : State := offer w idle

/-- In a send of the protocol `p` at the position `q` with `BIT_IDX = i`, `DIM = d` and one datagram to go. -/
def running (p : Proto) (q : Seq) (i : BitVec 5) (d : DimLevel) : State :=
  { idle with
    busy := true, seq := q, radio := ⟨0x0C, 0x68⟩
    work := ⟨0x803, d, p, 0x04, 0x00, 1, i⟩ }

/-- What a result's state shows. -/
def shows {α : Type} (r : Result) (f : State → α) : Option α :=
  match r with
  | .next s => some (f s)
  | .fault _ => none
  | .refused _ => none

/-! ## Decoding: words written out from the spec's encodings (vectors B1.1 to B1.21) -/

theorem test_decode_setPin :
    decode 0x0100000000000003 = .ok (.setPin 3) ∧ decode 0x01000000000000FF = .ok (.setPin 255) := by decide

theorem test_decode_setTiming :
    decode 0x0200000000FA020A = .ok (.setTiming 250 2 10) ∧
    decode 0x02000000FFFFFFFF = .ok (.setTiming 65535 255 255) := by decide

theorem test_decode_sendNew :
    decode 0x100109030014563E = .ok (.sendNew 1332798 3 true false 9) ∧
    decode 0x10030F0F03FFFFFF = .ok (.sendNew 67108863 15 true true 15) := by decide

theorem test_decode_sendOld :
    decode 0x1100000000010144 = .ok (.sendOld 68 1 true) ∧
    decode 0x1100000000001050 = .ok (.sendOld 80 16 false) := by decide

theorem test_decode_sendCogex :
    decode 0x120000000001010C = .ok (.sendCogex 12 1 true) ∧
    decode 0x1200000000000F0F = .ok (.sendCogex 15 15 false) := by decide

theorem test_decode_unassigned :
    decode 0x0000000000000000 = .error .unassignedOpcode ∧ decode 0x0300000000000000 = .error .unassignedOpcode ∧
    decode 0x1300000000010101 = .error .unassignedOpcode ∧
    decode 0xFF00000000000000 = .error .unassignedOpcode := by decide

theorem test_decode_reserved :
    decode 0x0100000000000103 = .error .reservedBitSet ∧ decode 0x0200000100FA020A = .error .reservedBitSet ∧
    decode 0x100400000014563E = .error .reservedBitSet ∧ decode 0x1100000000030144 = .error .reservedBitSet ∧
    decode 0x1280000000010C0C = .error .reservedBitSet := by decide

/-- Encoding gives the same words back (vectors B1.3, B1.7, B1.9). -/
theorem test_encode :
    encode (.setTiming 250 2 10) = 0x0200000000FA020A ∧
    encode (.sendNew 1332798 3 true false 9) = 0x100109030014563E ∧
    encode (.sendOld 68 1 true) = 0x1100000000010144 := by decide

/-- The opcode table's numbering is the word's own, and it refuses what the decoder refuses (vector B1.14). -/
theorem test_decodeTableWord :
    decodeTableWord 64 0x0100000000000003 = some (.setPin 3) ∧ decodeTableWord 64 0x0300000000000000 = none := by decide

/-! ## Well-formedness: one ill-formed command for each check (vectors B6.1, B6.4, B6.7, B6.11, B6.10, B6.13, B6.14,
B6.16 to B6.19) -/

theorem test_illFormed_newAddr : ¬(Instr.sendNew 67108864 1 true false 0).wellFormed := by decide
theorem test_illFormed_newUnit : ¬(Instr.sendNew 5 16 true false 0).wellFormed := by decide
theorem test_illFormed_newDim : ¬(Instr.sendNew 5 1 true false 16).wellFormed := by decide
theorem test_illFormed_oldHouse :
    ¬(Instr.sendOld 64 1 true).wellFormed ∧ ¬(Instr.sendOld 81 1 true).wellFormed := by decide
theorem test_illFormed_oldUnit :
    ¬(Instr.sendOld 65 0 true).wellFormed ∧ ¬(Instr.sendOld 65 17 true).wellFormed := by decide
theorem test_illFormed_cogexHouse :
    ¬(Instr.sendCogex 0 1 true).wellFormed ∧ ¬(Instr.sendCogex 16 1 true).wellFormed := by decide
theorem test_illFormed_cogexUnit :
    ¬(Instr.sendCogex 1 0 true).wellFormed ∧ ¬(Instr.sendCogex 1 16 true).wellFormed := by decide

/-- The unit is not checked with `group` (vector B6.5), and the largest fields are legal (vectors B6.3, B1.8). -/
theorem test_wellFormed :
    (Instr.sendNew 5 200 true true 0).wellFormed ∧ (Instr.sendNew 67108863 1 true false 0).wellFormed ∧
    (Instr.sendNew 67108863 15 true true 15).wellFormed ∧ (Instr.sendOld 80 16 true).wellFormed ∧
    (Instr.sendCogex 15 15 false).wellFormed := by decide

/-! ## One step each -/

/-- Vector B7.3: SETPIN 5 from pad 3. -/
theorem test_setPin_step : shows (step { offered 0x0100000000000005 with pads := [(3, ⟨.output, .low⟩)] })
    (fun t => (t.pin, t.pads, t.trace, t.status)) =
    some (5, [(3, ⟨.output, .low⟩), (5, ⟨.output, .low⟩)], [.pinMode 5, .pinWrite 5 .low], 0x00) := by decide

/-- Vector B7.4: SETPIN 8 with eight pads is refused. -/
theorem test_setPin_refused : step (offered 0x0100000000000008) = .refused .invalidPin := by rfl

/-- Vectors B7.5 and B7.7: SETTIMING, and it clears the report of an earlier fault. -/
theorem test_setTiming_step : shows (step { offered 0x0200000000FA020A with err := true, cause := .unit })
    (fun t => (t.period, t.repeats, t.rdelay, t.status, t.trace)) = some (250, 2, 10, 0x00, []) := by decide

/-- Vector B3.3: the Frame and the dim level of a dim command; `BUSY` rises. -/
theorem test_sendNew_step : shows (step (offered 0x100109030014563E))
    (fun t => (t.work.frame, t.work.dim, t.work.proto, t.seq, t.status)) =
    some (0x05158F92, 9, .new, .saveOpMode, 0x01) := by decide

/-- Vector B6.9: the unit is checked before the dim level. -/
theorem test_sendNew_fault : shows (step (offered 0x1001101000000005)) (fun t => (t.status, t.seq, t.trace)) =
    some (0x22, .idle, []) := by decide

/-- Vector B4.4: the largest OLD Frame. -/
theorem test_sendOld_step : shows (step (offered 0x1100000000011050))
    (fun t => (t.work.frame, t.work.dim, t.work.proto, t.status)) = some (0x8FF, 0, .old, 0x01) := by decide

/-- Vectors B6.20 and B6.22: 150 is no legal period, 151 is. -/
theorem test_sendOld_timing :
    shows (step (offer 0x1100000000010144 (idleAt 150 1))) (·.status) = some 0x52 ∧
    shows (step (offer 0x1100000000010144 (idleAt 151 1))) (·.status) = some 0x01 := by decide

/-- Vector B5.1: the Frame of the step-by-step example. -/
theorem test_sendCogex_step : shows (step (offered 0x120000000001010C))
    (fun t => (t.work.frame, t.work.dim, t.work.proto, t.status)) = some (0x839, 0, .cogex, 0x01) := by decide

/-- Vector B6.23: the field fault comes before the timing fault. -/
theorem test_sendCogex_fault : shows (step (offer 0x1200000000010100 (idleAt 150 1))) (·.status) = some 0x12 := by
  decide

/-- Vector B1.13: an illegal word is reported and nothing is emitted. -/
theorem test_illegal_step : shows (step (offered 0x0000000000000000)) (fun t => (t.status, t.trace)) =
    some (0x42, []) := by decide

/-- Vector B10, its `COGEXBIT(1)`: `T = 151` on pad 5. -/
theorem test_pulse : shows (emitCogex (.bit true) { idle with pin := 5, period := 151 }) (·.trace) =
    some [.pinWrite 5 .high, .delayUs 1, .pinWrite 5 .low, .delayUs 603,
      .pinWrite 5 .high, .delayUs 1, .pinWrite 5 .low, .delayUs 301] := by decide

set_option maxRecDepth 20000 in
/-- The example of R322: NEW on/off with `T = 250`, two repeats and 10 ms between them. -/
theorem test_requestedUs : shows (bigStep (.sendNew 1332798 1 true false 0) (idleAt 250 2))
    (fun t => requestedUs t.trace) = some 159000 := by rfl

/-- Vector B10, step 19: the last COGEX bit leads to the delay. -/
theorem test_lastShortBit : shows (step (running .cogex .bits 11 0)) (fun t => (t.seq, t.trace.length)) =
    some (.gap, 8) := by decide

/-- The word withFetchWord places is the one the next step takes, from reset (vector B1.1 with pad 0, which every
platform has). -/
theorem test_withFetchWord : shows (step (State.reset.withFetchWord 64 0x0100000000000000)) (fun t => (t.pin, t.trace)) =
    some (0, [.pinMode 0, .pinWrite 0 .low]) := by decide

/-! ## Witnesses: for every statement with hypotheses, a state and operands that meet them all -/

/-- `EncodeOfDecodeIsTheWord`. -/
theorem witness_decoded : ∃ w i, decode w = .ok i := ⟨0x0100000000000003, .setPin 3, by decide⟩

/-- `AcceptedWordFollowsTheMatchAndMaskTable`: a word of each row (the second with every field at its maximum) and one
of none. -/
theorem witness_table :
    (0x0100000000000003 &&& 0xFFFFFFFFFFFFFF00#64 = 0x0100000000000000#64) ∧
    (0x02000000FFFFFFFF &&& 0xFFFFFFFF00000000#64 = 0x0200000000000000#64) ∧
    (0x100109030014563E &&& 0xFFFC000000000000#64 = 0x1000000000000000#64) ∧
    (0x1100000000010144 &&& 0xFFFFFFFFFFFE0000#64 = 0x1100000000000000#64) ∧
    (0x120000000001010C &&& 0xFFFFFFFFFFFE0000#64 = 0x1200000000000000#64) ∧
    ∀ r ∈ opcodeTable, r.covers 0x1300000000010101 = false := by decide

/-- `UnassignedOpcodeRaisesIllegalCommand`. -/
theorem witness_unassigned : portOpen (offered 0x1300000000010101) = true ∧
    (offered 0x1300000000010101).inputs = .word 0x1300000000010101 :: [] ∧
    (0x1300000000010101#64).extractLsb' 56 8 ∉ [0x01#8, 0x02#8, 0x10#8, 0x11#8, 0x12#8] := by decide

/-- `ReservedBitRaisesIllegalCommand`: the lowest reserved bit of each format. -/
theorem witness_reserved :
    ((0x0100000000000103#64).getLsbD 8 = true ∧ (0x0100000000000103#64).extractLsb' 56 8 = 0x01#8) ∧
    ((0x0200000100FA020A#64).getLsbD 32 = true ∧ (0x0200000100FA020A#64).extractLsb' 56 8 = 0x02#8) ∧
    ((0x100400000014563E#64).getLsbD 50 = true ∧ (0x100400000014563E#64).extractLsb' 56 8 = 0x10#8) ∧
    ((0x1100000000030144#64).getLsbD 17 = true ∧ (0x1100000000030144#64).extractLsb' 56 8 = 0x11#8) ∧
    ((0x1280000000010C0C#64).getLsbD 55 = true ∧ (0x1280000000010C0C#64).extractLsb' 56 8 = 0x12#8) ∧
    portOpen (offered 0x0100000000000103) = true := by decide

/-- `StepPerformsTheDecodedCommand`, `EveryCommandOverwritesTheReport`. -/
theorem witness_stepPerforms : portOpen (offered 0x100109030014563E) = true ∧
    (offered 0x100109030014563E).inputs = .word 0x100109030014563E :: [] ∧
    decode 0x100109030014563E = .ok (.sendNew 1332798 3 true false 9) := by decide

/-- `OffersDuringSendHaveNoEffect`, `ConfigurationIsFixedDuringSend`, `SendKeepsStatusAndFrameToItsEnd` before the end
and at it, `TraceOnlyGrows`. -/
theorem witness_portClosed :
    (∃ t, portOpen (running .old .bits 0 0) = false ∧ step (running .old .bits 0 0) = .next t ∧
      (running .old .bits 0 0).seq ≠ .done) ∧
    ∃ t, portOpen (running .old .done 0 0) = false ∧ step (running .old .done 0 0) = .next t ∧
      (running .old .done 0 0).seq = .done :=
  ⟨⟨_, rfl, rfl, by decide⟩, _, rfl, rfl, rfl⟩

/-- `IdleBlockTakesTheOutsideMove`: one state for each clause. -/
theorem witness_idleBlock : (portOpen idle = true ∧ idle.inputs = []) ∧
    (portOpen { idle with inputs := [.reset] } = true) ∧
    (portOpen { idle with inputs := [.driverWrite .opMode 0xFF] } = true) ∧
    portOpen { idle with inputs := [.driverWrite .modul 0] } = true := by decide

/-- `SetPinSelectsAndDrivesTheNewPadLow` at the largest pin id, `InvalidPinIsRefused` at the smallest of its range. -/
theorem witness_pin : (7#8).toNat < idle.platform.nPins ∧ idle.platform.nPins ≤ (8#8).toNat ∧
    idle.platform.nPins ≤ ({ idle with pin := 8 } : State).pin.toNat ∧ isSend (.sendOld 65 1 true) = true := by decide

/-- `SetPinLeavesTheOldPadAlone`. -/
theorem witness_setPinLeaves : ∃ t, exec (.setPin 5) idle = .next t ∧ (5 : Byte) ≠ idle.pin := ⟨_, rfl, by decide⟩

/-- `SendNewReportsTheFirstFailedCheck`: each clause at the edge of its range. -/
theorem witness_newFaults : idle.pin.toNat < idle.platform.nPins ∧ 2 ^ 26 ≤ (67108864#32).toNat ∧
    ((67108863#32).toNat < 2 ^ 26 ∧ 15 < (16#8).toNat) ∧
    ((false = true ∨ (15#8).toNat ≤ 15) ∧ 15 < (16#8).toNat) ∧
    ((15#8).toNat ≤ 15 ∧ (idleAt 150 0).period.toNat ≤ 150) := by decide

/-- `SendOldReportsTheFirstFailedCheck`: each clause at the edges of its range. -/
theorem witness_oldFaults : ((64#8).toNat < 65 ∧ 80 < (81#8).toNat) ∧
    (65 ≤ (65#8).toNat ∧ (80#8).toNat ≤ 80 ∧ (0#8).toNat < 1 ∧ 16 < (17#8).toNat) ∧
    (1 ≤ (1#8).toNat ∧ (16#8).toNat ≤ 16 ∧ (idleAt 150 0).period.toNat ≤ 150) := by decide

/-- `SendCogexReportsTheFirstFailedCheck`: each clause at the edges of its range. -/
theorem witness_cogexFaults : ((0#8).toNat < 1 ∧ 15 < (16#8).toNat) ∧
    (1 ≤ (1#8).toNat ∧ (15#8).toNat ≤ 15 ∧ (0#8).toNat < 1 ∧ 15 < (16#8).toNat) ∧
    (1 ≤ (1#8).toNat ∧ (15#8).toNat ≤ 15 ∧ (idleAt 150 0).period.toNat ≤ 150) := by decide

/-- `ValidationErrorExactlyOutsideTheLegalRanges`: a legal and an illegal send, the pad existing. -/
theorem witness_validation : isSend (.sendOld 80 16 true) = true ∧ idle.pin.toNat < idle.platform.nPins ∧
    (Instr.sendOld 80 16 true).wellFormed ∧ ¬(Instr.sendOld 81 16 true).wellFormed := by decide

/-- `FaultChangesOnlyTheReport`. -/
theorem witness_fault : ∃ t, acceptWord 0x1100000000010151 idle = .next t ∧ t.err = true := ⟨_, rfl, rfl⟩

/-- The hypotheses of every statement about a send that is performed (`SendNewIsAcceptedWithItsFrame`,
`SendNewRunsToItsEnd`, their OLD and COGEX counterparts, `SendRestoresTheRadioAndLeavesThePinLow`,
`WorkingRegistersCarryNothingBetweenSends`, `SendRequestsItsDatagramsAndDelays`, `SequencerAgreesWithTheWholeCommand`): the smallest period, the largest
fields. -/
theorem witness_performed : portOpen (idleAt 151 255) = true ∧
    (idleAt 151 255).pin.toNat < (idleAt 151 255).platform.nPins ∧ 150 < (idleAt 151 255).period.toNat ∧
    (Instr.sendNew 67108863 15 true true 15).wellFormed ∧ isSend (.sendNew 67108863 15 true true 15) = true ∧
    (Instr.sendOld 80 16 false).wellFormed ∧ (Instr.sendCogex 15 15 true).wellFormed := by decide

/-- `ZeroRepeatsRunOnlyTheGuard`: the same with no repeat. -/
theorem witness_zeroRepeats : portOpen (idleAt 151 0) = true ∧
    (idleAt 151 0).pin.toNat < (idleAt 151 0).platform.nPins ∧ 150 < (idleAt 151 0).period.toNat ∧
    (idleAt 151 0).repeats = 0 := by decide

/-- `GroupSentinelIsFrameBitFive`: both sides of its hypothesis, and `OffCommandIgnoresItsDimLevel`. -/
theorem witness_group : (true = true ∨ (255#8).toNat ≤ 15) ∧ (false = true ∨ (15#8).toNat ≤ 15) ∧
    (15#8).toNat ≤ 15 := by decide

/-- `PulsePrimitivePerformsItsContract`, `BitSymbolsHaveFixedTotals`,
`DatagramRequestedTimeIsAMultipleOfThePeriod`: the smallest period. -/
theorem witness_period : (idleAt 151 0).pin.toNat < (idleAt 151 0).platform.nPins ∧
    150 < (idleAt 151 0).period.toNat := by decide

/-- `PulseLeavesOnlyTheSelectedPadLow`, `PulseRequestedTimeIsTheSumOfItsHolds`, `PinLevelsAlternateOverAWholeSend`: each
variant answers, with two phases and with one, on a pad that is an input. -/
theorem witness_pulse : (∃ t, pulseNew (250, 250) idle = .next t) ∧ (∃ t, pulseOld (0, 750) idle = .next t) ∧
    (∃ t, pulseCogex (750, 250) idle = .next t) ∧ (idle.pad idle.pin.toNat).dir = .input :=
  ⟨⟨_, rfl⟩, ⟨_, rfl⟩, ⟨_, rfl⟩, rfl⟩

/-- `EnabledTableRowFires`: every row is enabled somewhere, at the edges of its range. -/
theorem witness_rows :
    (∃ t, SendRow 2 (running .new .saveOpMode 0 0) t) ∧ (∃ t, SendRow 3 (running .new .saveModul 0 0) t) ∧
    (∃ t, SendRow 4 (running .new .setModul 0 0) t) ∧ (∃ t, SendRow 5 (running .new .setOpMode 0 0) t) ∧
    (∃ t, SendRow 6 (running .new .repTest 0 0) t) ∧
    (∃ t, SendRow 7 { running .new .repTest 0 0 with work.repCnt := 0 } t) ∧
    (∃ t, SendRow 8 (running .new .start 0 0) t) ∧ (∃ t, SendRow 9 (running .cogex .start 0 0) t) ∧
    (∃ t, SendRow 10 (running .new .bits 4 1) t) ∧ (∃ t, SendRow 11 (running .new .bits 31 1) t) ∧
    (∃ t, SendRow 11 (running .new .bits 4 0) t) ∧ (∃ t, SendRow 12 (running .new .bits 0 0) t) ∧
    (∃ t, SendRow 13 (running .new .bits 0 15) t) ∧ (∃ t, SendRow 14 (running .old .bits 10 0) t) ∧
    (∃ t, SendRow 15 (running .cogex .bits 11 0) t) ∧ (∃ t, SendRow 16 (running .new .dimBits 3 1) t) ∧
    (∃ t, SendRow 17 (running .new .dimBits 0 1) t) ∧ (∃ t, SendRow 18 (running .new .stop 0 0) t) ∧
    (∃ t, SendRow 19 (running .old .gap 0 0) t) ∧ (∃ t, SendRow 20 (running .old .restOpMode 0 0) t) ∧
    (∃ t, SendRow 21 (running .old .restModul 0 0) t) ∧ (∃ t, SendRow 22 (running .old .done 0 0) t) :=
  ⟨⟨_, .saveOpMode rfl⟩, ⟨_, .saveModul rfl⟩, ⟨_, .setModul rfl⟩, ⟨_, .setOpMode rfl⟩,
   ⟨_, .repeatAgain rfl (by decide)⟩, ⟨_, .repeatEnd rfl rfl⟩, ⟨_, .startNew rfl rfl⟩, ⟨_, .startShort rfl (.inr rfl)⟩,
   ⟨_, .dimmer rfl rfl rfl (by decide)⟩, ⟨_, .newBit rfl rfl (by decide) (by decide)⟩,
   ⟨_, .newBit rfl rfl (by decide) (by decide)⟩, ⟨_, .newLastOnOff rfl rfl rfl rfl⟩,
   ⟨_, .newLastDim rfl rfl rfl (by decide)⟩, ⟨_, .shortBit rfl (.inl rfl) (by decide)⟩,
   ⟨_, .shortLast rfl (.inr rfl) rfl⟩, ⟨_, .dimBit rfl (by decide) (by decide)⟩, ⟨_, .dimLast rfl rfl⟩,
   ⟨_, .stop rfl⟩, ⟨_, .gap rfl (by decide)⟩, ⟨_, .restOpMode rfl⟩, ⟨_, .restModul rfl⟩, ⟨_, .done rfl⟩⟩

/-- `EnabledTableRowFires`, its other hypotheses. -/
theorem witness_rowsPremises : ∀ q, (running .new q 0 0).pin.toNat < (running .new q 0 0).platform.nPins ∧
    150 < (running .new q 0 0).period.toNat := by
  intro q
  cases q <;> decide

/-- `ExactlyOneRowIsEnabled`, `EverySendReturnsToIdle` and `OnlyUndefinedOffersStopTheMachine` with the port closed: a
state of a send that meets the invariant. -/
theorem witness_invRunning : Inv (running .old .bits 11 0) ∧ (running .old .bits 11 0).seq ≠ .idle := by
  refine ⟨⟨by decide, by decide, fun p => rfl, ?_, ?_, ?_, ?_, ?_, ?_, ?_, ?_, ?_, ?_, ?_, ?_, ?_⟩, by decide⟩
  all_goals decide

/-- `OnlyUndefinedOffersStopTheMachine`, `EveryStepKeepsTheInvariant`: an idle state that meets the invariant, with a
move that is allowed and with one that is not. -/
theorem witness_invIdle : (Inv (offered 0x0100000000000007) ∧ inputAllowed (offered 0x0100000000000007) = true) ∧
    (Inv (offered 0x0100000000000008) ∧ portOpen (offered 0x0100000000000008) = true ∧
      inputAllowed (offered 0x0100000000000008) = false) := by
  refine ⟨⟨⟨by decide, by decide, fun p => rfl, ?_, ?_, ?_, ?_, ?_, ?_, ?_, ?_, ?_, ?_, ?_, ?_, ?_⟩, by decide⟩,
    ⟨by decide, by decide, fun p => rfl, ?_, ?_, ?_, ?_, ?_, ?_, ?_, ?_, ?_, ?_, ?_, ?_, ?_⟩, by decide, by decide⟩
  all_goals decide

/-- `EveryStepKeepsTheInvariant`: such a state steps. -/
theorem witness_invStep : ∃ t, step (offered 0x0100000000000007) = .next t := ⟨_, rfl⟩

/-- `OnlyTableRowsFire`, `BodyAndGuardStayApart` in the body and in the guard. -/
theorem witness_apart :
    (∃ t, (running .old .bits 0 0).seq ≠ .idle ∧ step (running .old .bits 0 0) = .next t ∧
      inBody (running .old .bits 0 0).seq = true ∧ (running .old .bits 0 0).seq ≠ .restOpMode) ∧
    ∃ t, (running .old .restOpMode 0 0).seq ≠ .idle ∧ step (running .old .restOpMode 0 0) = .next t ∧
      inDatagram (running .old .restOpMode 0 0).seq = false :=
  ⟨⟨_, by decide, rfl, rfl, by decide⟩, _, by decide, rfl, rfl⟩

/-- `OnlyTheSelectedPadIsTouched`: a step with the port open that is no system start, and one with it closed. -/
theorem witness_selected :
    (∃ t, step (offered 0x0100000000000007) = .next t ∧ (offered 0x0100000000000007).inputs.head? ≠ some .reset) ∧
    ∃ t, step (running .old .bits 0 0) = .next t ∧ portOpen (running .old .bits 0 0) = false :=
  ⟨⟨_, rfl, by decide⟩, _, rfl, rfl⟩

/-- `InterRepeatDelayIsRdelayMilliseconds`: with no delay set and with the longest. -/
theorem witness_gap : (({ running .old .gap 0 0 with rdelay := 0 } : State).seq = .gap ∧
    ({ running .old .gap 0 0 with rdelay := 0 } : State).work.repCnt ≠ 0) ∧
    ({ running .old .gap 0 0 with rdelay := 255 } : State).seq = .gap ∧
    ({ running .old .gap 0 0 with rdelay := 255 } : State).work.repCnt ≠ 0 := by decide

/-- `GuardEnterSavesThenForcesTheRadio` and `GuardExitRestoresTheRadio`. -/
theorem witness_guard : (running .new .saveOpMode 0 0).seq = .saveOpMode ∧
    (running .new .restOpMode 0 0).seq = .restOpMode := ⟨rfl, rfl⟩

/-- `ConfigurationIsWrittenOnlyByItsCommands`: a step that changes `PIN` and one that changes the timing registers. -/
theorem witness_configuration :
    (∃ t, step (offered 0x0100000000000007) = .next t ∧ (offered 0x0100000000000007).inputs.head? ≠ some .reset ∧
      t.pin ≠ (offered 0x0100000000000007).pin) ∧
    ∃ t, step (offered 0x0200000001900200) = .next t ∧ (offered 0x0200000001900200).inputs.head? ≠ some .reset ∧
      t.period ≠ (offered 0x0200000001900200).period :=
  ⟨⟨_, rfl, by decide, by decide⟩, _, rfl, by decide, by decide⟩

/-- `PinLevelsAlternateOverAWholeSend` and `DelayArgumentsStayInRange`: a whole send that answers a next state. -/
theorem witness_wholeSend : ∃ t es, isSend (.sendOld 68 1 true) = true ∧
    bigStep (.sendOld 68 1 true) (idleAt 151 1) = .next t ∧ t.trace = (idleAt 151 1).trace ++ es := ⟨_, _, rfl, rfl, rfl⟩

/-- `DatagramsSendTheBitsInProtocolOrder`: both branches and the edges of its indices. -/
theorem witness_datagram : (0 : DimLevel) = 0 ∧ (15 : DimLevel) ≠ 0 ∧ 31 < 32 ∧ 26 < 27 ∧ 3 < 4 ∧ 11 < 12 := by decide

end Sys2Proof.Tests
end

/-! # The sequencer's rows

`fireRow` and the table of R237 (`SendRow`) say the same: every later fact about a step of a send is read off the
table, one constructor a row. -/

namespace Sys2Proof.Machine

/-- A Pulse Primitive call can be performed: `PIN` names a pad and the hold does not underflow (R12, R218). -/
def CanEmit (s : State) : Prop := s.pinValid = true ∧ Config.correctionUs < s.period.toNat

/-- A Pulse Primitive call followed by `f` answers a next state exactly when the call can be performed. -/
theorem andThen_pulse_next {d1 d2 : Nat} {s t : State} {f : State → Result} :
    andThen (pulse d1 d2 s) f = .next t ↔ CanEmit s ∧ f (s.pulsed (d1, d2)) = .next t := by
  rw [andThen_eq_next]
  constructor
  · rintro ⟨u, hu, hf⟩
    obtain ⟨hT, hv, rfl⟩ := pulse_next hu
    exact ⟨⟨hv, hT⟩, hf⟩
  · rintro ⟨⟨hv, hT⟩, hf⟩
    exact ⟨_, pulse_eq d1 d2 hv hT, hf⟩

theorem andThen_emitNew_next {y : NewSymbol} {s t : State} {f : State → Result} :
    andThen (emitNew y s) f = .next t ↔ CanEmit s ∧ f (s.pulsed (newDurations s.period.toNat y)) = .next t :=
  andThen_pulse_next

theorem andThen_emitOld_next {y : ShortSymbol} {s t : State} {f : State → Result} :
    andThen (emitOld y s) f = .next t ↔ CanEmit s ∧ f (s.pulsed (oldDurations s.period.toNat y)) = .next t :=
  andThen_pulse_next

/-- OLD and COGEX symbols have the same durations (R114, R115), so this is the OLD symbol's effect. -/
theorem andThen_emitCogex_next {y : ShortSymbol} {s t : State} {f : State → Result} :
    andThen (emitCogex y s) f = .next t ↔ CanEmit s ∧ f (s.pulsed (oldDurations s.period.toNat y)) = .next t :=
  andThen_pulse_next

@[simp] theorem newDurations_bit (T : Nat) (b : Bool) : newDurations T (.bit b) = newBitPair T b := by cases b <;> rfl
@[simp] theorem newDurations_start (T : Nat) : newDurations T .start = (0, 10 * T) := rfl
@[simp] theorem newDurations_stop (T : Nat) : newDurations T .stop = (0, 10 * T) := rfl
@[simp] theorem newDurations_dimmer (T : Nat) : newDurations T .dimmer = (T, T) := by simp [newDurations]
@[simp] theorem oldDurations_bit (T : Nat) (b : Bool) : oldDurations T (.bit b) = shortBitPair T b := by
  cases b <;> rfl
@[simp] theorem oldDurations_start (T : Nat) : oldDurations T .start = (0, 3 * T) := rfl

/-- The rows that call the Pulse Primitive are rows 8 to 18 of R237. -/
def RowFires (s t : State) : Prop := ∃ n, SendRow n s t ∧ (8 ≤ n ∧ n ≤ 18 → CanEmit s)

/-- A row that calls the Pulse Primitive fires where it is enabled and the call can be performed. -/
theorem RowFires.emitting {n : Nat} {s t : State} (he : CanEmit s) (h : SendRow n s t) : RowFires s t :=
  ⟨n, h, fun _ => he⟩

/-- A row outside 8 to 18 fires wherever it is enabled. -/
theorem RowFires.silent {n : Nat} {s t : State} (hn : n < 8 ∨ 18 < n) (h : SendRow n s t) : RowFires s t :=
  ⟨n, h, fun _ => by omega⟩

/-! ### From the sequencer to the table -/

theorem atRepTest_row {s : State} (hq : s.seq = .repTest) : RowFires s (atRepTest s) := by
  unfold atRepTest
  split
  · next hn => exact .silent (by decide) (.repeatAgain hq hn)
  · next hn => exact .silent (by decide) (.repeatEnd hq (not_not.1 hn))

theorem atStart_row {s t : State} (hq : s.seq = .start) (h : atStart s = .next t) : RowFires s t := by
  unfold atStart at h
  split at h <;> rename_i hp
  · obtain ⟨he, ⟨⟩⟩ := andThen_emitNew_next.1 h
    exact .emitting he (.startNew hq hp)
  · obtain ⟨he, ⟨⟩⟩ := andThen_emitOld_next.1 h
    exact .emitting he (.startShort hq (.inl hp))
  · obtain ⟨he, ⟨⟩⟩ := andThen_emitCogex_next.1 h
    exact .emitting he (.startShort hq (.inr hp))

theorem atBitsNew_row {s t : State} (hq : s.seq = .bits) (hp : s.work.proto = .new) (h : atBitsNew s = .next t) :
    RowFires s t := by
  unfold atBitsNew at h
  split at h
  · next hd =>
    obtain ⟨he, ⟨⟩⟩ := andThen_emitNew_next.1 h
    rw [newDurations_dimmer]
    exact .emitting he (.dimmer hq hp hd.1 hd.2)
  · next hd =>
    split at h
    · next hi =>
      obtain ⟨he, ⟨⟩⟩ := andThen_emitNew_next.1 h
      rw [newDurations_bit]
      exact .emitting he (.newBit hq hp (by bv_omega) hd)
    · next hi =>
      have hi : s.work.bitIdx = 0 := not_not.1 hi
      have hb : frameBit s = s.work.frame.getLsbD 0 := by simp [frameBit, hi]
      split at h
      · next hdim =>
        obtain ⟨he, ⟨⟩⟩ := andThen_emitNew_next.1 h
        rw [newDurations_bit, hb]
        exact .emitting he (.newLastOnOff hq hp hi hdim)
      · next hdim =>
        obtain ⟨he, ⟨⟩⟩ := andThen_emitNew_next.1 h
        rw [newDurations_bit, hb]
        exact .emitting he (.newLastDim hq hp hi hdim)

/-- OLD and COGEX share the argument: `emitSymbol` stands for the emission of either's symbols. -/
theorem atBitsShort_row {emitSymbol : ShortSymbol → State → Result} {s t : State} (hq : s.seq = .bits)
    (hp : s.work.proto = .old ∨ s.work.proto = .cogex)
    (hemit : ∀ {y : ShortSymbol} {f : State → Result}, andThen (emitSymbol y s) f = .next t →
      CanEmit s ∧ f (s.pulsed (oldDurations s.period.toNat y)) = .next t)
    (h : atBitsShort emitSymbol s = .next t) : RowFires s t := by
  unfold atBitsShort at h
  split at h
  · next hi =>
    obtain ⟨he, ⟨⟩⟩ := hemit h
    rw [oldDurations_bit]
    exact .emitting he (.shortBit hq hp hi)
  · split at h
    · next hi =>
      have hi : s.work.bitIdx = 11 := BitVec.eq_of_toNat_eq hi
      have hb : frameBit s = s.work.frame.getLsbD 11 := by simp [frameBit, hi]
      obtain ⟨he, ⟨⟩⟩ := hemit h
      rw [oldDurations_bit, hb]
      exact .emitting he (.shortLast hq hp hi)
    · cases h

theorem atBits_row {s t : State} (hq : s.seq = .bits) (h : atBits s = .next t) : RowFires s t := by
  unfold atBits at h
  split at h <;> rename_i hp
  · exact atBitsNew_row hq hp h
  · exact atBitsShort_row hq (.inl hp) andThen_emitOld_next.1 h
  · exact atBitsShort_row hq (.inr hp) andThen_emitCogex_next.1 h

theorem atDimBits_row {s t : State} (hq : s.seq = .dimBits) (h : atDimBits s = .next t) : RowFires s t := by
  unfold atDimBits at h
  split at h
  · cases h
  · next hr =>
    obtain ⟨he, h⟩ := andThen_emitNew_next.1 h
    split at h <;> rename_i hi
    · cases h
      rw [newDurations_bit]
      exact .emitting he (.dimBit hq (by bv_omega) (by omega))
    · have hi : s.work.bitIdx = 0 := not_not.1 hi
      cases h
      rw [newDurations_bit, hi]
      exact .emitting he (.dimLast hq hi)

theorem atStop_row {s t : State} (hq : s.seq = .stop) (h : atStop s = .next t) : RowFires s t := by
  obtain ⟨he, ⟨⟩⟩ := andThen_emitNew_next.1 h
  exact .emitting he (.stop hq)

theorem atGap_row {s t : State} (hq : s.seq = .gap) (h : atGap s = .next t) : RowFires s t := by
  unfold atGap at h
  split at h
  · cases h
  · next hn =>
    cases h
    exact .silent (by decide) (.gap hq hn)

/-- Everything the sequencer can do during a send: the firing of a row of R237. -/
theorem fireRow_row {s t : State} (hs : s.seq ≠ .idle) (h : fireRow s = .next t) : RowFires s t := by
  unfold fireRow at h
  split at h <;> rename_i hq
  · exact absurd hq hs
  · cases h; exact .silent (by decide) (.saveOpMode hq)
  · cases h; exact .silent (by decide) (.saveModul hq)
  · cases h; exact .silent (by decide) (.setModul hq)
  · cases h; exact .silent (by decide) (.setOpMode hq)
  · cases h; exact atRepTest_row hq
  · exact atStart_row hq h
  · exact atBits_row hq h
  · exact atDimBits_row hq h
  · exact atStop_row hq h
  · exact atGap_row hq h
  · cases h; exact .silent (by decide) (.restOpMode hq)
  · cases h; exact .silent (by decide) (.restModul hq)
  · cases h; exact .silent (by decide) (.done hq)

/-! ### From the table to the sequencer -/

/-- The short protocols' payload step is the same for OLD and COGEX. -/
theorem atBits_of_short {s : State} (hp : s.work.proto = .old ∨ s.work.proto = .cogex) :
    atBits s = atBitsShort emitOld s := by
  obtain hp | hp := hp
  · simp only [atBits, hp]
  · simp only [atBits, hp]; rfl

theorem atStart_of_short {s : State} (hp : s.work.proto = .old ∨ s.work.proto = .cogex) :
    atStart s = andThen (emitOld .start s) fun t => .next ((t.setBitIdx 0).goto .bits) := by
  obtain hp | hp := hp
  · simp only [atStart, hp]
  · simp only [atStart, hp]; rfl

/-- An enabled row is what the sequencer does, if it can emit where it has to. -/
theorem fireRow_of_row {s t : State} (h : RowFires s t) : fireRow s = .next t := by
  obtain ⟨n, h, he⟩ := h
  cases h with
  | saveOpMode hq | saveModul hq | setModul hq | setOpMode hq | restOpMode hq | restModul hq | done hq =>
    simp only [fireRow, hq]; rfl
  | repeatAgain hq hn => simp only [fireRow, hq, atRepTest, if_pos hn]; rfl
  | repeatEnd hq hn => simp only [fireRow, hq, atRepTest, hn]; rfl
  | startNew hq hp =>
    simp only [fireRow, hq, atStart, hp]
    exact andThen_emitNew_next.2 ⟨he (by decide), rfl⟩
  | startShort hq hp =>
    simp only [fireRow, hq, atStart_of_short hp]
    exact andThen_emitOld_next.2 ⟨he (by decide), rfl⟩
  | dimmer hq hp hi hd =>
    simp only [fireRow, hq, atBits, hp, atBitsNew, if_pos (And.intro hi hd)]
    refine andThen_emitNew_next.2 ⟨he (by decide), ?_⟩
    rw [newDurations_dimmer]; rfl
  | newBit hq hp hi hd =>
    have hi : s.work.bitIdx ≠ 0 := by bv_omega
    simp only [fireRow, hq, atBits, hp, atBitsNew, if_neg hd, if_pos hi]
    refine andThen_emitNew_next.2 ⟨he (by decide), ?_⟩
    rw [newDurations_bit]; rfl
  | newLastOnOff hq hp hi hd =>
    simp only [fireRow, hq, atBits, hp, atBitsNew, hi, hd]
    refine andThen_emitNew_next.2 ⟨he (by decide), ?_⟩
    simp only [newDurations_bit, frameBit, hi]; rfl
  | newLastDim hq hp hi hd =>
    simp only [fireRow, hq, atBits, hp, atBitsNew, hi, if_neg hd]
    refine andThen_emitNew_next.2 ⟨he (by decide), ?_⟩
    simp only [newDurations_bit, frameBit, hi]; rfl
  | shortBit hq hp hi =>
    simp only [fireRow, hq, atBits_of_short hp, atBitsShort, if_pos hi]
    refine andThen_emitOld_next.2 ⟨he (by decide), ?_⟩
    rw [oldDurations_bit]; rfl
  | shortLast hq hp hi =>
    simp only [fireRow, hq, atBits_of_short hp, atBitsShort, hi]
    refine andThen_emitOld_next.2 ⟨he (by decide), ?_⟩
    simp only [oldDurations_bit, frameBit, hi]; rfl
  | dimBit hq hi hr =>
    have hi : s.work.bitIdx ≠ 0 := by bv_omega
    simp only [fireRow, hq, atDimBits, if_neg (Nat.not_lt.2 hr)]
    refine andThen_emitNew_next.2 ⟨he (by decide), ?_⟩
    simp only [newDurations_bit, if_pos hi]; rfl
  | dimLast hq hi =>
    simp only [fireRow, hq, atDimBits, hi]
    refine andThen_emitNew_next.2 ⟨he (by decide), ?_⟩
    rw [newDurations_bit]; rfl
  | stop hq =>
    simp only [fireRow, hq, atStop]
    exact andThen_emitNew_next.2 ⟨he (by decide), rfl⟩
  | gap hq hn => simp only [fireRow, hq, atGap, if_neg hn]; rfl

/-- An enabled row belongs to a send. -/
theorem SendRow.seq_ne_idle {n : Nat} {s t : State} (h : SendRow n s t) : s.seq ≠ .idle := by
  cases h <;> simp [*]

end Sys2Proof.Machine

/-! # Everything a step can do

A closed port fires a row of the table; an open one takes a move of the outside world. Both are said once, as a relation
with one constructor a case, and the facts about a step are read off it. -/

namespace Sys2Proof

open Machine

/-- What an accepted word can leave: a fault report, SETPIN's or SETTIMING's effect, or a send that begins. -/
inductive WordOutcome (w : CommandWord) (s : State) : State → Prop where
  | reported (c : Cause) (hc : c ≠ .noFault) : WordOutcome w s (raise c s)
  | pinSelected (pin : Byte) (hd : decode w = .ok (.setPin pin)) (hp : pin.toNat < s.platform.nPins) :
    WordOutcome w s (pinSelected pin s)
  | timingSet (period : Period) (repeats rdelay : Byte) (hd : decode w = .ok (.setTiming period repeats rdelay)) :
    WordOutcome w s (performed { s with period := period, repeats := repeats, rdelay := rdelay })
  | sendAccepted (p : Proto) (frame : Frame) (dim : DimLevel) (he : CanEmit s)
      (hn : p ≠ .new → frame.toNat < 2 ^ 12 ∧ dim = 0) : WordOutcome w s (acceptSend p frame dim s)

/-- What a step can leave. The sequencer waits in `IDLE` while busy (log 11) and with nothing offered (R236). -/
inductive StepOutcome (s : State) : State → Prop where
  | waits (hq : s.seq = .idle) : StepOutcome s s
  | row {n : Nat} {t : State} (hc : portOpen s = false) (h : SendRow n s t) (he : 8 ≤ n ∧ n ≤ 18 → CanEmit s) :
    StepOutcome s t
  | word {w : CommandWord} {rest : List Input} {t : State} (ho : portOpen s = true) (hi : s.inputs = .word w :: rest)
      (h : WordOutcome w { s with inputs := rest } t) : StepOutcome s t
  | started {rest : List Input} (ho : portOpen s = true) (hi : s.inputs = .reset :: rest) :
    StepOutcome s (systemStart { s with inputs := rest })
  | driverWrote {r : RadioReg} {v : Byte} {rest : List Input} (ho : portOpen s = true)
      (hi : s.inputs = .driverWrite r v :: rest) :
    StepOutcome s { s with inputs := rest, radio := s.radio.set r v }

/-! ### Frames of the short protocols have 12 bits (R31, R106, R109) -/

/-- A union of words below `2 ^ 12` is below `2 ^ 12`. -/
theorem toNat_or_lt {a b : Frame} (ha : a.toNat < 2 ^ 12) (hb : b.toNat < 2 ^ 12) : (a ||| b).toNat < 2 ^ 12 := by
  rw [BitVec.toNat_or]
  exact Nat.or_lt_two_pow ha hb

/-- A field moved to bit `k` stays below `2 ^ 12` when its value there does. -/
theorem toNat_shiftLeft_lt {n : Nat} {v : BitVec n} {k : Nat} (h : v.toNat * 2 ^ k < 2 ^ 12) :
    (v.setWidth 32 <<< k).toNat < 2 ^ 12 := by
  rw [BitVec.toNat_shiftLeft, BitVec.toNat_setWidth, Nat.shiftLeft_eq]
  calc v.toNat % 2 ^ 32 * 2 ^ k % 2 ^ 32 ≤ v.toNat % 2 ^ 32 * 2 ^ k := Nat.mod_le _ _
    _ ≤ v.toNat * 2 ^ k := Nat.mul_le_mul_right _ (Nat.mod_le _ _)
    _ < 2 ^ 12 := h

theorem toNat_setWidth_lt {n : Nat} {v : BitVec n} (h : v.toNat < 2 ^ 12) : (v.setWidth 32).toNat < 2 ^ 12 :=
  (BitVec.toNat_setWidth 32 v ▸ Nat.mod_le _ _).trans_lt h

/-- The OLD Frame (R106): no field reaches bit 12. -/
theorem oldFrame_lt (P : Config.Platform) (house unit : Byte) (on : Bool) :
    (oldFrame P house unit on).toNat < 2 ^ 12 := by
  have hfixed := P.oldFixed.isLt
  have hunit := (unit - 1).isLt
  have hhouse := (house - Config.charA).isLt
  refine toNat_or_lt (toNat_or_lt (toNat_or_lt ?_ ?_) ?_) ?_
  · exact toNat_setWidth_lt hfixed
  · exact toNat_shiftLeft_lt (by omega)
  · exact toNat_setWidth_lt (by omega)
  · cases on <;> decide

theorem unit_le_of_cogexFieldFault {house unit : Byte} (h : cogexFieldFault house unit = none) : unit.toNat ≤ 15 := by
  unfold cogexFieldFault at h
  split at h
  · cases h
  · split at h
    · cases h
    · omega

/-- The COGEX Frame (R109) of a legal unit: the unit's field ends at bit 9. -/
theorem cogexFrame_lt (P : Config.Platform) {house unit : Byte} (on : Bool) (hu : unit.toNat ≤ 15) :
    (cogexFrame P house unit on).toNat < 2 ^ 12 := by
  have hfixed := P.cogexFixed.isLt
  have hhouse := house.isLt
  refine toNat_or_lt (toNat_or_lt (toNat_or_lt ?_ ?_) ?_) ?_
  · exact toNat_setWidth_lt hfixed
  · exact toNat_shiftLeft_lt (by omega)
  · exact toNat_shiftLeft_lt (by omega)
  · cases on <;> decide

/-! ### The outcomes -/

theorem wordOutcome_of_beginSend {w : CommandWord} {p : Proto} {fields : Option Cause} {frame : Frame}
    {dim : DimLevel} {s t : State} (hf : fields ≠ some .noFault)
    (hn : fields = none → p ≠ .new → frame.toNat < 2 ^ 12 ∧ dim = 0)
    (h : beginSend p fields frame dim s = .next t) : WordOutcome w s t := by
  obtain ⟨hv, ⟨c, hc, rfl⟩ | ⟨hf, hT, rfl⟩⟩ := beginSend_next hf h
  · exact .reported c hc
  · exact .sendAccepted p frame dim ⟨hv, hT⟩ (hn hf)

theorem wordOutcome_of_exec {w : CommandWord} {i : Instr} {s t : State} (hd : decode w = .ok i)
    (h : exec i s = .next t) : WordOutcome w s t := by
  cases i with
  | setPin pin =>
    obtain ⟨-, e⟩ | ⟨hp, e⟩ := execSetPin_cases pin s
    · cases e.symm.trans h
    · cases e.symm.trans h
      exact .pinSelected pin hd hp
  | setTiming period repeats rdelay =>
    cases h
    exact .timingSet period repeats rdelay hd
  | sendNew addr unit on group dim =>
    exact wordOutcome_of_beginSend (newFieldFault_ne_noFault _ _ _ _) (fun _ hp => absurd rfl hp) h
  | sendOld house unit on =>
    exact wordOutcome_of_beginSend (oldFieldFault_ne_noFault _ _) (fun _ _ => ⟨oldFrame_lt .., rfl⟩) h
  | sendCogex house unit on =>
    exact wordOutcome_of_beginSend (cogexFieldFault_ne_noFault _ _)
      (fun hf _ => ⟨cogexFrame_lt _ on (unit_le_of_cogexFieldFault hf), rfl⟩) h

theorem wordOutcome_of_acceptWord {w : CommandWord} {s t : State} (h : acceptWord w s = .next t) :
    WordOutcome w s t := by
  obtain ⟨e, -, rfl⟩ | ⟨i, hd, h⟩ := acceptWord_next h
  · exact .reported .illegal (by decide)
  · exact wordOutcome_of_exec hd h

theorem stepOutcome_of_takeInput {s t : State} (ho : portOpen s = true) (h : takeInput s = .next t) :
    StepOutcome s t := by
  unfold takeInput at h
  split at h <;> rename_i hi
  · cases h; exact .waits (portOpen_iff.1 ho).1
  · exact .word ho hi (wordOutcome_of_acceptWord h)
  · cases h; exact .started ho hi
  · cases h; exact .driverWrote ho hi

/-- Everything a step can do. -/
theorem stepOutcome_of_step {s t : State} (h : step s = .next t) : StepOutcome s t := by
  cases ho : portOpen s with
  | true => exact stepOutcome_of_takeInput ho ((step_of_portOpen ho).symm.trans h)
  | false =>
    replace h := (step_of_portClosed ho).symm.trans h
    by_cases hq : s.seq = .idle
    · simp only [fireRow, hq] at h
      cases h
      exact .waits hq
    · obtain ⟨n, hr, he⟩ := fireRow_row hq h
      exact .row ho hr he

/-- Everything a step with the port closed can do: wait in `IDLE`, or fire a row. -/
theorem step_portClosed_cases {s t : State} (hc : portOpen s = false) (h : step s = .next t) :
    s.seq = .idle ∧ t = s ∨ ∃ n, SendRow n s t := by
  cases stepOutcome_of_step h with
  | waits hq => exact .inl ⟨hq, rfl⟩
  | row _ h _ => exact .inr ⟨_, h⟩
  | word ho | started ho | driverWrote ho => simp [hc] at ho

/-! ### What a row leaves alone -/

/-- `t` has the Configuration, the report, the platform and the waiting moves of `s`. -/
structure KeepsHostState (s t : State) : Prop where
  pin : t.pin = s.pin
  period : t.period = s.period
  repeats : t.repeats = s.repeats
  rdelay : t.rdelay = s.rdelay
  platform : t.platform = s.platform
  err : t.err = s.err
  cause : t.cause = s.cause
  inputs : t.inputs = s.inputs

/-- No row writes what the host sees or sets, but for `BUSY` (R26, R41, R44). -/
theorem Machine.SendRow.keepsHostState {n : Nat} {s t : State} (h : SendRow n s t) : KeepsHostState s t := by
  cases h <;> exact ⟨rfl, rfl, rfl, rfl, rfl, rfl, rfl, rfl⟩

/-- Only the last row ends the send; the others keep what acceptance wrote (R243). -/
theorem Machine.SendRow.keeps_send {n : Nat} {s t : State} (h : SendRow n s t) (hq : s.seq ≠ .done) :
    t.busy = s.busy ∧ t.seq ≠ .idle ∧ t.work.frame = s.work.frame ∧ t.work.dim = s.work.dim ∧
      t.work.proto = s.work.proto := by
  cases h with
  | done hd => exact absurd hd hq
  | _ => exact ⟨rfl, nofun, rfl, rfl, rfl⟩

/-- At `DONE` the send ends (row 22). -/
theorem Machine.SendRow.eq_endSend {n : Nat} {s t : State} (h : SendRow n s t) (hq : s.seq = .done) :
    t = endSend s := by
  cases h with
  | done => rfl
  | _ => simp_all

end Sys2Proof

/-! # The invariant

The pads, the states in `IDLE`, and the positions of a send are three separate matters: each has its lemmas, and the
preservation theorem puts them together. -/

namespace Sys2Proof

open Machine

/-! ### The pads -/

/-- The invariant's three clauses about pads, of a pad space on a platform. -/
def PadsInv (P : Config.Platform) (m : PadSpace) : Prop :=
  PadSpace.wf m ∧ (∀ e ∈ m, e.1 < P.nPins) ∧ ∀ p, (PadSpace.read m p).lvl = .low

theorem Inv.padsInv {s : State} (hs : Inv s) : PadsInv s.platform s.pads :=
  ⟨hs.padsCanonical, hs.padsExist, hs.padsLow⟩

theorem PadsInv.nil (P : Config.Platform) : PadsInv P [] :=
  ⟨PadSpace.wf_nil, nofun, fun _ => rfl⟩

/-- Driving a pad that exists LOW keeps the clauses. -/
theorem PadsInv.write_low {P : Config.Platform} {m : PadSpace} {p : Nat} {x : Pad} (h : PadsInv P m)
    (hp : p < P.nPins) (hx : x.lvl = .low) : PadsInv P (PadSpace.write m p x) := by
  obtain ⟨hwf, hexist, hlow⟩ := h
  refine ⟨PadSpace.wf_write p x hwf, fun e he => ?_, fun q => ?_⟩
  · obtain rfl | he := PadSpace.mem_write he
    · exact hp
    · exact hexist e he
  · by_cases hq : q = p
    · rw [hq, PadSpace.read_write_same, hx]
    · rw [PadSpace.read_write_other m x hq]
      exact hlow q

/-- What a row does to the pads: nothing, or pad `PIN` ends LOW (R48, R136). -/
theorem Machine.SendRow.pads {n : Nat} {s t : State} (h : SendRow n s t) :
    t.pads = s.pads ∨ t.pads = PadSpace.write s.pads s.pin.toNat { s.pad s.pin.toNat with lvl := .low } := by
  cases h with
  | saveOpMode | saveModul | setModul | setOpMode | repeatAgain | repeatEnd | gap | restOpMode | restModul | done =>
    exact .inl rfl
  | _ => exact .inr rfl

/-! ### The states in `IDLE` -/

/-- In `IDLE` the invariant asks only for the pads and a consistent report: nothing is under way. -/
theorem Inv.of_idle {s : State} (hq : s.seq = .idle) (hb : s.busy = false) (hp : PadsInv s.platform s.pads)
    (he : s.err = true ↔ s.cause ≠ .noFault) : Inv s := by
  obtain ⟨hwf, hexist, hlow⟩ := hp
  constructor
  case padsCanonical => exact hwf
  case padsExist => exact hexist
  case padsLow => exact hlow
  case errIffCause => exact he
  all_goals simp [hq, hb, inDatagram, inBody]

/-- The state after system start, whatever else it keeps. -/
theorem inv_systemStart (s : State) : Inv (systemStart s) :=
  .of_idle rfl rfl (.nil _) (by simp [systemStart, State.resetOn])

/-- Settles O42: reset leaves the block in `IDLE` with every pad unlisted and no cause. -/
theorem resetStateMeetsTheInvariant : Obligations.ResetStateMeetsTheInvariant :=
  .of_idle rfl rfl (.nil _) (by simp [State.reset, State.resetOn])

/-- A word taken while the block is idle keeps the invariant. -/
theorem WordOutcome.inv {w : CommandWord} {s t : State} (h : WordOutcome w s t) (hs : Inv s) (hq : s.seq = .idle)
    (hb : s.busy = false) : Inv t := by
  cases h with
  | reported c hc => exact .of_idle hq hb hs.padsInv (by simpa using hc)
  | pinSelected pin hd hp =>
    have hpads := hs.padsInv.write_low (x := ⟨.output, .low⟩) hp rfl
    exact .of_idle hq hb hpads (by simp [Sys2Proof.pinSelected])
  | timingSet => exact .of_idle hq hb hs.padsInv (by simp)
  | sendAccepted p frame dim he hn =>
    obtain ⟨hv, hT⟩ := he
    obtain ⟨hwf, hexist, hlow⟩ := hs.padsInv
    exact {
      padsCanonical := hwf
      padsExist := hexist
      padsLow := hlow
      busyIffRunning := by simp [acceptSend]
      errIffCause := by simp [acceptSend]
      busyNoFault := fun _ => rfl
      busyPin := fun _ => (pinValid_iff s).1 hv
      busyPeriod := fun _ => hT
      shortRange := nofun
      dimRange := nofun
      stopNew := nofun
      counted := nofun
      countBound := nofun
      frameNarrow := fun _ => hn
      radioForced := nofun
      modulForced := by simp [acceptSend] }

/-! ### The positions of a send -/

section Rows

variable {n : Nat} {s t : State}

/-- A send runs until its last row. -/
theorem Machine.SendRow.busyIffRunning (h : SendRow n s t) (hs : Inv s) : t.busy = true ↔ t.seq ≠ .idle := by
  have hb : s.busy = true := hs.busyIffRunning.2 h.seq_ne_idle
  cases h with
  | done => simp
  | _ => exact iff_of_true hb nofun

/-- The payload of OLD and COGEX starts at bit 0 and is left at bit 11 (R244). -/
theorem Machine.SendRow.shortRange (h : SendRow n s t) (hq : t.seq = .bits) (hp : t.work.proto ≠ .new) :
    t.work.bitIdx.toNat ≤ 11 := by
  cases h with
  | startNew _ hnew | dimmer _ hnew | newBit _ hnew => exact absurd hnew hp
  | startShort => exact (by decide : (0 : BitVec 5).toNat ≤ 11)
  | shortBit _ _ hi =>
    show (s.work.bitIdx + 1).toNat ≤ 11
    bv_omega
  | _ => cases hq

/-- The dim bits follow the last Frame bit of a NEW send with a dim level, from bit 3 down (R242, R245). -/
theorem Machine.SendRow.dimRange (h : SendRow n s t) (hs : Inv s) (hq : t.seq = .dimBits) :
    t.work.proto = .new ∧ t.work.dim ≠ 0 ∧ t.work.bitIdx.toNat ≤ 3 := by
  cases h with
  | newLastDim _ hnew _ hd => exact ⟨hnew, hd, (by decide : (3 : BitVec 5).toNat ≤ 3)⟩
  | dimBit hq' hi _ =>
    obtain ⟨hnew, hd, hr⟩ := hs.dimRange hq'
    refine ⟨hnew, hd, ?_⟩
    show (s.work.bitIdx - 1).toNat ≤ 3
    bv_omega
  | _ => cases hq

/-- Only a NEW send reaches its stop marker (R247). -/
theorem Machine.SendRow.stopNew (h : SendRow n s t) (hs : Inv s) (hq : t.seq = .stop) : t.work.proto = .new := by
  cases h with
  | newLastOnOff _ hnew => exact hnew
  | dimLast hq' => exact (hs.dimRange hq').1
  | _ => cases hq

/-- A datagram starts only when one is left to send, and is counted at its end (R240, R248). -/
theorem Machine.SendRow.counted (h : SendRow n s t) (hs : Inv s) (hq : inDatagram t.seq = true) :
    t.work.repCnt ≠ 0 := by
  cases h with
  | repeatAgain _ hn => exact hn
  | saveOpMode | saveModul | setModul | setOpMode | repeatEnd | gap | restOpMode | restModul | done => cases hq
  | startNew hq' | startShort hq' | dimmer hq' | newBit hq' | newLastOnOff hq' | newLastDim hq' | shortBit hq'
  | shortLast hq' | dimBit hq' | dimLast hq' | stop hq' => exact hs.counted (by rw [hq']; rfl)

/-- `REP_CNT` is loaded from `REPEATS` and then only falls (R39, R240, R248). -/
theorem Machine.SendRow.countBound (h : SendRow n s t) (hs : Inv s) (hq : inBody t.seq = true) :
    t.work.repCnt.toNat ≤ t.repeats.toNat := by
  cases h with
  | setOpMode => exact le_rfl
  | gap hq' hn =>
    have hle := hs.countBound (by rw [hq']; rfl)
    show (s.work.repCnt - 1).toNat ≤ s.repeats.toNat
    bv_omega
  | saveOpMode | saveModul | setModul | restOpMode | restModul | done => cases hq
  | repeatAgain hq' | repeatEnd hq' | startNew hq' | startShort hq' | dimmer hq' | newBit hq' | newLastOnOff hq'
  | newLastDim hq' | shortBit hq' | shortLast hq' | dimBit hq' | dimLast hq' | stop hq' =>
    exact hs.countBound (by rw [hq']; rfl)

/-- The body runs between the guard's two stages, which alone write the radio (R204, R210). -/
theorem Machine.SendRow.radioForced (h : SendRow n s t) (hs : Inv s) (hq : inBody t.seq = true) :
    t.radio = ⟨t.platform.valTx, t.platform.valOokContNosync⟩ := by
  cases h with
  | setOpMode hq' =>
    have hm := hs.modulForced (.inl hq')
    exact congrArg (Radio.mk s.platform.valTx) hm
  | saveOpMode | saveModul | setModul | restOpMode | restModul | done => cases hq
  | repeatAgain hq' | repeatEnd hq' | startNew hq' | startShort hq' | dimmer hq' | newBit hq' | newLastOnOff hq'
  | newLastDim hq' | shortBit hq' | shortLast hq' | dimBit hq' | dimLast hq' | stop hq' | gap hq' =>
    exact hs.radioForced (by rw [hq']; rfl)

/-- The modulation type is forced by row 4, before the operating mode, and restored by row 21, after it (R202, R203). -/
theorem Machine.SendRow.modulForced (h : SendRow n s t) (hs : Inv s) (hq : t.seq = .setOpMode ∨ t.seq = .restModul) :
    t.radio.modul = t.platform.valOokContNosync := by
  cases h with
  | setModul => rfl
  | restOpMode hq' => exact congrArg Radio.modul (hs.radioForced (by rw [hq']; rfl))
  | _ => simp at hq

/-- A row of a send that is still busy afterwards keeps what acceptance wrote. -/
theorem Machine.SendRow.keeps_send_of_busy (h : SendRow n s t) (hb : t.busy = true) :
    t.work.frame = s.work.frame ∧ t.work.dim = s.work.dim ∧ t.work.proto = s.work.proto := by
  cases h with
  | done => cases hb
  | _ => exact ⟨rfl, rfl, rfl⟩

/-- Every row keeps the invariant. -/
theorem Machine.SendRow.inv (h : SendRow n s t) (hs : Inv s) : Inv t := by
  have hk := h.keepsHostState
  have hb : s.busy = true := hs.busyIffRunning.2 h.seq_ne_idle
  have hpads : PadsInv t.platform t.pads := by
    rw [hk.platform]
    obtain e | e := h.pads <;> rw [e]
    · exact hs.padsInv
    · exact hs.padsInv.write_low (hs.busyPin hb) rfl
  obtain ⟨hwf, hexist, hlow⟩ := hpads
  exact {
    padsCanonical := hwf
    padsExist := hexist
    padsLow := hlow
    busyIffRunning := h.busyIffRunning hs
    errIffCause := by rw [hk.err, hk.cause]; exact hs.errIffCause
    busyNoFault := fun _ => hk.cause.trans (hs.busyNoFault hb)
    busyPin := fun _ => by rw [hk.pin, hk.platform]; exact hs.busyPin hb
    busyPeriod := fun _ => by rw [hk.period]; exact hs.busyPeriod hb
    shortRange := h.shortRange
    dimRange := h.dimRange hs
    stopNew := h.stopNew hs
    counted := h.counted hs
    countBound := h.countBound hs
    frameNarrow := fun hbt hp => by
      obtain ⟨hframe, hdim, hproto⟩ := h.keeps_send_of_busy hbt
      rw [hframe, hdim]
      exact hs.frameNarrow hb (hproto ▸ hp)
    radioForced := h.radioForced hs
    modulForced := h.modulForced hs }

end Rows

/-! ### Every step -/

/-- The moves of the outside world still to come are no part of the invariant. -/
theorem Inv.inputs {s : State} (hs : Inv s) (rest : List Input) : Inv { s with inputs := rest } :=
  { hs with }

theorem StepOutcome.inv {s t : State} (h : StepOutcome s t) (hs : Inv s) : Inv t := by
  cases h with
  | waits => exact hs
  | row _ h _ => exact h.inv hs
  | word ho _ h =>
    obtain ⟨hq, hb⟩ := portOpen_iff.1 ho
    exact h.inv (hs.inputs _) hq hb
  | started => exact inv_systemStart _
  | driverWrote ho _ =>
    obtain ⟨hq, hb⟩ := portOpen_iff.1 ho
    exact .of_idle hq hb hs.padsInv hs.errIffCause

/-- Settles O43: a step waits, fires a row, or takes a move of the outside world while the block is idle. -/
theorem everyStepKeepsTheInvariant : Obligations.EveryStepKeepsTheInvariant :=
  fun _ _ hs h => (stepOutcome_of_step h).inv hs

end Sys2Proof

/-! # What a step changes

The facts about the trace, the pads, the Configuration, the report and the port, each read off the outcomes of a
step. -/

namespace Sys2Proof

open Machine

/-! ### The status register and the reset state -/

/-- An idle block without a fault shows `STATUS = 0`. -/
theorem Machine.State.status_eq_zero {s : State} (hc : s.cause = .noFault) (he : s.err = false) (hb : s.busy = false) :
    s.status = 0 := by
  simp [State.status, hc, he, hb, Cause.code]

/-- Bits 7..4 of `STATUS` are the code of the cause. -/
theorem Machine.State.status_cause (s : State) : s.status.extractLsb' 4 4 = s.cause.code := by
  apply BitVec.eq_of_getLsbD_eq
  intro k hk
  simp only [State.status, BitVec.getLsbD_extractLsb', BitVec.getLsbD_or, BitVec.getLsbD_shiftLeft,
    BitVec.getLsbD_setWidth]
  interval_cases k <;> simp

/-- Bits 3..2 of `STATUS` are zero. -/
theorem Machine.State.status_zeros (s : State) : s.status.extractLsb' 2 2 = 0 := by
  apply BitVec.eq_of_getLsbD_eq
  intro k hk
  simp only [State.status, BitVec.getLsbD_extractLsb', BitVec.getLsbD_or, BitVec.getLsbD_shiftLeft,
    BitVec.getLsbD_setWidth]
  interval_cases k <;> simp

/-- Settles O19: each field of `STATUS` lies where the shifts put it. -/
theorem statusShowsBusyErrAndCause : Obligations.StatusShowsBusyErrAndCause := by
  refine ⟨fun s => ⟨by simp [State.status], by simp [State.status], s.status_zeros, ?_⟩,
    State.status_eq_zero rfl rfl rfl⟩
  rw [s.status_cause]
  cases s.cause <;> rfl

/-- Settles O44: the table of R51 is the definition of the reset state; with no pad listed every pad reads as an input
at level 0. -/
theorem resetLeavesTheStateOfTheResetTable : Obligations.ResetLeavesTheStateOfTheResetTable :=
  ⟨fun _ _ => ⟨rfl, rfl, rfl, rfl, State.status_eq_zero rfl rfl rfl, rfl, fun _ => rfl, rfl, rfl⟩, rfl⟩

/-! ### The Pulse Primitive -/

/-- The three variants are one operation (R134). -/
theorem pulse_of_variant {s t : State} {d1 d2 : Nat}
    (h : pulseNew (d1, d2) s = .next t ∨ pulseOld (d1, d2) s = .next t ∨ pulseCogex (d1, d2) s = .next t) :
    pulse d1 d2 s = .next t := by
  obtain h | h | h := h <;> exact h

/-- Settles O27: a call leaves exactly its own effect, one LOW write of pad `PIN`. -/
theorem pulseLeavesOnlyTheSelectedPadLow : Obligations.PulseLeavesOnlyTheSelectedPadLow := by
  intro s t d1 d2 h
  obtain ⟨-, -, rfl⟩ := pulse_next (pulse_of_variant h)
  refine ⟨by simp, by simp, fun q hq => State.pad_pulsed_other _ s hq, fun hin => ?_⟩
  simp [State.wire, hin]

/-! ### The port -/

/-- The port does not depend on what waits there. -/
theorem portOpen_inputs (s : State) (l : List Input) : portOpen { s with inputs := l } = portOpen s := rfl

/-- A row neither reads nor writes the moves still to come (R41). -/
theorem Machine.SendRow.replace_inputs {n : Nat} {s t : State} (h : SendRow n s t) (l : List Input) :
    SendRow n { s with inputs := l } { t with inputs := l } := by
  cases h <;> constructor <;> assumption

/-- Settles O8: a row fires with other moves waiting as it does with these. -/
theorem offersDuringSendHaveNoEffect : Obligations.OffersDuringSendHaveNoEffect := by
  intro s t offered hc h
  rw [step_of_portClosed ((portOpen_inputs s offered).trans hc)]
  cases stepOutcome_of_step h with
  | waits hq => exact ⟨rfl, by simp only [fireRow, hq]⟩
  | row _ h he =>
    exact ⟨h.keepsHostState.inputs, fireRow_of_row ⟨_, h.replace_inputs offered, he⟩⟩
  | word ho | started ho | driverWrote ho => simp [hc] at ho

/-! ### The Configuration and the report during a send -/

/-- Settles O36: no row writes the Configuration. -/
theorem configurationIsFixedDuringSend : Obligations.ConfigurationIsFixedDuringSend := by
  intro s t hc h
  obtain ⟨-, rfl⟩ | ⟨n, h⟩ := step_portClosed_cases hc h
  · exact ⟨rfl, rfl, rfl, rfl, rfl⟩
  · have hk := h.keepsHostState
    exact ⟨hk.pin, hk.period, hk.repeats, hk.rdelay, hk.platform⟩

/-- Settles O37: only row 22, at `DONE`, ends the send. -/
theorem sendKeepsStatusAndFrameToItsEnd : Obligations.SendKeepsStatusAndFrameToItsEnd := by
  intro s t hc h
  obtain ⟨hq, rfl⟩ | ⟨n, h⟩ := step_portClosed_cases hc h
  · exact ⟨rfl, rfl, fun _ => ⟨rfl, rfl, rfl, rfl⟩, fun hd => by simp [hq] at hd⟩
  · have hk := h.keepsHostState
    refine ⟨hk.err, hk.cause, fun hd => ?_, fun hd => ?_⟩
    · obtain ⟨hbusy, -, hwork⟩ := h.keeps_send hd
      exact ⟨hbusy, hwork⟩
    · rw [h.eq_endSend hd]
      exact ⟨rfl, rfl⟩

/-! ### The trace and the pads -/

/-- What a transition appends to the trace concerns no pad but the one selected after it (R48). -/
def AppendsOnSelectedPad (s t : State) : Prop :=
  ∃ es, t.trace = s.trace ++ es ∧ ∀ e ∈ es, onlyPad t.pin.toNat e

/-- A transition that emits nothing. -/
theorem AppendsOnSelectedPad.of_trace_eq {s t : State} (h : t.trace = s.trace) : AppendsOnSelectedPad s t :=
  ⟨[], by simpa using h, nofun⟩

/-- The events of a Pulse Primitive call are on its pad. -/
theorem onlyPad_pulseEvents (p T : Nat) (d : Nat × Nat) : ∀ e ∈ pulseEvents p T d, onlyPad p e := by
  by_cases hd : d.1 = 0 <;> simp [pulseEvents, phaseEvents, onlyPad, hd]

theorem Machine.SendRow.appendsOnSelectedPad {n : Nat} {s t : State} (h : SendRow n s t) :
    AppendsOnSelectedPad s t := by
  cases h with
  | saveOpMode | saveModul | setModul | setOpMode | gap | restOpMode | restModul =>
    exact ⟨_, rfl, by simp [onlyPad]⟩
  | repeatAgain | repeatEnd | done => exact .of_trace_eq rfl
  | _ => exact ⟨_, rfl, onlyPad_pulseEvents _ _ _⟩

theorem WordOutcome.appendsOnSelectedPad {w : CommandWord} {s t : State} (h : WordOutcome w s t) :
    AppendsOnSelectedPad s t := by
  cases h with
  | pinSelected => exact ⟨_, rfl, by simp [onlyPad, Sys2Proof.pinSelected]⟩
  | _ => exact .of_trace_eq rfl

theorem StepOutcome.appendsOnSelectedPad {s t : State} (h : StepOutcome s t) : AppendsOnSelectedPad s t := by
  cases h with
  | row _ h _ => exact h.appendsOnSelectedPad
  | word _ _ h => exact h.appendsOnSelectedPad
  | _ => exact .of_trace_eq rfl

/-- A row changes no pad but pad `PIN`. -/
theorem Machine.SendRow.pad_other {n : Nat} {s t : State} (h : SendRow n s t) {q : Nat} (hq : q ≠ t.pin.toNat) :
    t.pad q = s.pad q := by
  rw [h.keepsHostState.pin] at hq
  obtain e | e := h.pads
  · exact congrArg (PadSpace.read · q) e
  · rw [State.pad, e, PadSpace.read_write_other _ _ hq, State.pad]

theorem WordOutcome.pad_other {w : CommandWord} {s t : State} (h : WordOutcome w s t) {q : Nat}
    (hq : q ≠ t.pin.toNat) : t.pad q = s.pad q := by
  cases h with
  | pinSelected pin => exact PadSpace.read_write_other s.pads (p := pin.toNat) ⟨.output, .low⟩ hq
  | _ => rfl

/-- System start apart, a step changes no pad but the one selected after it. -/
theorem StepOutcome.pad_other {s t : State} (h : StepOutcome s t)
    (hreset : portOpen s = true → s.inputs.head? ≠ some .reset) {q : Nat} (hq : q ≠ t.pin.toNat) :
    t.pad q = s.pad q := by
  cases h with
  | row _ h _ => exact h.pad_other hq
  | word _ _ h => exact h.pad_other hq
  | started ho hi => exact absurd (by simp [hi]) (hreset ho)
  | waits | driverWrote => rfl

/-- Settles O39: rows work on pad `PIN`, and SETPIN on the pad it selects. -/
theorem onlyTheSelectedPadIsTouched : Obligations.OnlyTheSelectedPadIsTouched := by
  intro s t h
  have ho := stepOutcome_of_step h
  exact ⟨ho.appendsOnSelectedPad, fun hreset _ hq => ho.pad_other hreset hq⟩

theorem WordOutcome.platform {w : CommandWord} {s t : State} (h : WordOutcome w s t) : t.platform = s.platform := by
  cases h <;> rfl

theorem StepOutcome.platform {s t : State} (h : StepOutcome s t) : t.platform = s.platform := by
  cases h with
  | row _ h _ => exact h.keepsHostState.platform
  | word _ _ h => exact h.platform
  | _ => rfl

/-- Settles O57: every outcome appends to the trace, system start nothing. -/
theorem traceOnlyGrows : Obligations.TraceOnlyGrows := by
  intro s t h
  have ho := stepOutcome_of_step h
  obtain ⟨es, htrace, -⟩ := ho.appendsOnSelectedPad
  exact ⟨⟨es, htrace.symm⟩, ho.platform⟩

/-! ### The commands -/

/-- The Configuration after an accepted word: only SETPIN writes `PIN`, and only SETTIMING the timing registers. -/
theorem WordOutcome.configuration {w : CommandWord} {s t : State} (h : WordOutcome w s t) :
    (t.pin ≠ s.pin → decode w = .ok (.setPin t.pin)) ∧
      (t.period ≠ s.period ∨ t.repeats ≠ s.repeats ∨ t.rdelay ≠ s.rdelay →
        decode w = .ok (.setTiming t.period t.repeats t.rdelay)) := by
  cases h with
  | pinSelected pin hd => exact ⟨fun _ => hd, by simp [Sys2Proof.pinSelected]⟩
  | timingSet period repeats rdelay hd => exact ⟨by simp, fun _ => hd⟩
  | reported => simp
  | sendAccepted => simp [acceptSend]

/-- Settles O40: of the outcomes of a step, only an accepted word and system start write the Configuration. -/
theorem configurationIsWrittenOnlyByItsCommands : Obligations.ConfigurationIsWrittenOnlyByItsCommands := by
  intro s t h hreset
  cases stepOutcome_of_step h with
  | waits | driverWrote => simp
  | row _ h _ =>
    have hk := h.keepsHostState
    simp [hk.pin, hk.period, hk.repeats, hk.rdelay]
  | @word w rest _ ho hi h =>
    obtain ⟨hpin, htiming⟩ := h.configuration
    have hhead : s.inputs.head? = some (.word w) := by rw [hi]; rfl
    exact ⟨fun hne => ⟨ho, _, hhead, hpin hne⟩, fun hne => ⟨ho, _, hhead, htiming hne⟩⟩
  | started _ hi => exact absurd (by rw [hi]; rfl) hreset

/-- The acceptance of a send overwrites the report and does not read it. -/
theorem beginSend_report (p : Proto) (fields : Option Cause) (frame : Frame) (dim : DimLevel) (s : State) (err : Bool)
    (cause : Cause) :
    beginSend p fields frame dim { s with err := err, cause := cause } = beginSend p fields frame dim s := by
  have hv : ({ s with err := err, cause := cause } : State).pinValid = s.pinValid := rfl
  have hf : sendFault fields { s with err := err, cause := cause } = sendFault fields s := rfl
  simp only [beginSend, hv, hf]
  cases sendFault fields s <;> rfl

/-- SETPIN overwrites the report and does not read it. -/
theorem execSetPin_report (pin : Byte) (s : State) (err : Bool) (cause : Cause) :
    execSetPin pin { s with err := err, cause := cause } = execSetPin pin s := by
  obtain ⟨hp, e⟩ | ⟨hp, e⟩ := execSetPin_cases pin s <;>
    obtain ⟨hp', e'⟩ | ⟨hp', e'⟩ := execSetPin_cases pin { s with err := err, cause := cause }
  · rw [e, e']
  · exact absurd hp (Nat.not_le.2 hp')
  · exact absurd hp' (Nat.not_le.2 hp)
  · rw [e, e']; rfl

/-- Settles O41: each of the five commands and the report of an illegal word overwrite `ERR` and `CAUSE`. -/
theorem everyCommandOverwritesTheReport : Obligations.EveryCommandOverwritesTheReport := by
  intro s w err cause
  unfold acceptWord
  cases decode w with
  | error => rfl
  | ok i =>
    cases i with
    | setPin pin => exact execSetPin_report pin s err cause
    | setTiming => rfl
    | sendNew | sendOld | sendCogex => exact beginSend_report ..

end Sys2Proof

/-! # Reading a command word back

A word is a union of placed fields; a field of it is the one placed there. -/

namespace Sys2Proof

theorem field_or (v w : CommandWord) (lo len : Nat) : field (v ||| w) lo len = field v lo len ||| field w lo len := by
  apply BitVec.eq_of_getLsbD_eq
  intro k hk
  simp only [BitVec.getLsbD_or, getLsbD_field, Bool.and_or_distrib_left]

/-- The field where a value was placed reads that value. -/
theorem field_place_same {n : Nat} (v : BitVec n) {lo : Nat} (h : lo + n ≤ 64) : field (place v lo) lo n = v := by
  apply BitVec.eq_of_getLsbD_eq
  intro k hk
  rw [getLsbD_field, getLsbD_place]
  simp [hk, show lo + k < 64 by omega]

/-- A field that ends below a placed value reads none of it. -/
theorem field_place_below {n : Nat} (v : BitVec n) {lo lo' len : Nat} (h : lo' + len ≤ lo) :
    field (place v lo) lo' len = 0#len := by
  apply BitVec.eq_of_getLsbD_eq
  intro k hk
  rw [getLsbD_field, getLsbD_place]
  simp [show ¬lo ≤ lo' + k by omega]

/-- A field that starts above a placed value reads none of it. -/
theorem field_place_above {n : Nat} (v : BitVec n) {lo lo' len : Nat} (h : lo + n ≤ lo') :
    field (place v lo) lo' len = 0#len := by
  apply BitVec.eq_of_getLsbD_eq
  intro k hk
  rw [getLsbD_field, getLsbD_place, BitVec.getLsbD_of_ge v (lo' + k - lo) (by omega)]
  simp

/-- A flag of a word is a field of one bit. -/
theorem getLsbD_eq_field (w : CommandWord) (k : Nat) : w.getLsbD k = (field w k 1).getLsbD 0 := by
  simp only [getLsbD_field, Nat.add_zero, Nat.zero_lt_one, decide_true, Bool.true_and]

/-- The decoder reads every command back from its word: each field of R92 to R95 is where it was placed, and the
reserved field is zero. -/
theorem decode_encode (i : Instr) : decode (encode i) = .ok i := by
  unfold decode
  rw [opcodeOf_encode]
  cases i with
  | setPin | setTiming | sendNew | sendOld | sendCogex =>
    refine checkReserved_eq_ok.2 ⟨?_, ?_⟩ <;>
      simp [encode, getLsbD_eq_field, field_or, field_place_same, field_place_below, field_place_above,
        -BitVec.getLsbD_eq_getElem]

end Sys2Proof

/-! # The run of a whole send

From row 2 to row 22 the sequencer is followed row by row. Between two rows of a datagram only the trace, pad `PIN`,
`BIT_IDX` and `SEQ` differ from the state the datagram began in, so a state under way is named by those four
(`State.keyed`), and each stretch of a datagram is a lemma about such states. -/

namespace Sys2Proof.Machine

/-- The state `s` after pulses on pad `PIN`: events emitted, the pad LOW, `BIT_IDX` and `SEQ` moved. -/
def State.keyed (s : State) (es : List Event) (i : BitVec 5) (q : Seq) : State :=
  { s with
    pads := PadSpace.write s.pads s.pin.toNat { s.pad s.pin.toNat with lvl := .low }
    trace := s.trace ++ es, work.bitIdx := i, seq := q }

/-- The state after the datagram with the events `es` and its inter-repeat delay. -/
def State.sent (s : State) (es : List Event) (i : BitVec 5) : State :=
  { s.keyed (es ++ [.delayMs s.rdelay.toNat]) i .repTest with work.repCnt := s.work.repCnt - 1 }

/-- The events of a NEW symbol string; `newDatagramEvents` is that of a datagram's. -/
def newEvents (p T : Nat) (ys : List NewSymbol) : List Event := ys.flatMap fun y => pulseEvents p T (newDurations T y)

/-- The events of an OLD symbol string; `oldDatagramEvents` is that of a datagram's. -/
def shortEvents (p T : Nat) (ys : List ShortSymbol) : List Event :=
  ys.flatMap fun y => pulseEvents p T (oldDurations T y)

theorem newDatagramEvents_eq (p T : Nat) (frame : Frame) (dim : DimLevel) :
    newDatagramEvents p T frame dim = newEvents p T (newDatagram frame dim) := rfl

theorem oldDatagramEvents_eq (p T : Nat) (frame : Frame) :
    oldDatagramEvents p T frame = shortEvents p T (shortDatagram frame) := rfl

/-- Equal OLD and COGEX Frames have equal datagrams (R191): the symbols' durations are equal. -/
theorem cogexDatagramEvents_eq (p T : Nat) (frame : Frame) :
    cogexDatagramEvents p T frame = oldDatagramEvents p T frame := rfl

@[simp] theorem newEvents_nil (p T : Nat) : newEvents p T [] = [] := rfl
@[simp] theorem newEvents_append (p T : Nat) (xs ys : List NewSymbol) :
    newEvents p T (xs ++ ys) = newEvents p T xs ++ newEvents p T ys := List.flatMap_append
theorem newEvents_cons (p T : Nat) (y : NewSymbol) (ys : List NewSymbol) :
    newEvents p T (y :: ys) = pulseEvents p T (newDurations T y) ++ newEvents p T ys := rfl

@[simp] theorem shortEvents_nil (p T : Nat) : shortEvents p T [] = [] := rfl
@[simp] theorem shortEvents_append (p T : Nat) (xs ys : List ShortSymbol) :
    shortEvents p T (xs ++ ys) = shortEvents p T xs ++ shortEvents p T ys := List.flatMap_append
theorem shortEvents_cons (p T : Nat) (y : ShortSymbol) (ys : List ShortSymbol) :
    shortEvents p T (y :: ys) = pulseEvents p T (oldDurations T y) ++ shortEvents p T ys := rfl

/-- A pulse of a state under way. -/
theorem State.keyed_pulsed (s : State) (es : List Event) (i j : BitVec 5) (q r : Seq) (d : Nat × Nat) :
    { (s.keyed es i q).pulsed d with work.bitIdx := j, seq := r } =
      s.keyed (es ++ pulseEvents s.pin.toNat s.period.toNat d) j r := by
  simp [State.keyed, State.pulsed, State.setPad, State.emit, State.pad]

end Sys2Proof.Machine

namespace Sys2Proof

open Machine

/-- A row that fires is one step of a run. -/
theorem runSteps_row {k : Nat} {s t : State} (h : RowFires s t) : runSteps (k + 1) s = runSteps k t := by
  have hs : s.seq ≠ .idle := by
    obtain ⟨n, h, -⟩ := h
    exact h.seq_ne_idle
  rw [runSteps_succ, step_of_portClosed (portClosed_of_seq hs), fireRow_of_row h, andThen_next]

/-- Two runs in a row. -/
theorem runSteps_trans {m k : Nat} {s t : State} {r : Result} (h : runSteps m s = .next t) (h' : runSteps k t = r) :
    runSteps (m + k) s = r := by
  rw [runSteps_add, h, andThen_next, h']

/-! ### The symbols of a datagram under way -/

section Symbols

variable {s : State} (he : CanEmit s) (es : List Event)
include he

/-- The next pulse of a datagram under way, by whichever row makes it. -/
theorem runSteps_keyed (i : BitVec 5) (q : Seq) {n k : Nat} {j : BitVec 5} {r : Seq} {d : Nat × Nat}
    (h : SendRow n (s.keyed es i q) { (s.keyed es i q).pulsed d with work.bitIdx := j, seq := r }) :
    runSteps (k + 1) (s.keyed es i q) =
      runSteps k (s.keyed (es ++ pulseEvents s.pin.toNat s.period.toNat d) j r) := by
  rw [← State.keyed_pulsed s es i j q r d]
  exact runSteps_row (.emitting he h)

/-- The next NEW symbol. -/
theorem runSteps_newSymbol (y : NewSymbol) (i : BitVec 5) (q : Seq) {n k : Nat} {j : BitVec 5} {r : Seq}
    {d : Nat × Nat} (hy : newDurations s.period.toNat y = d)
    (h : SendRow n (s.keyed es i q) { (s.keyed es i q).pulsed d with work.bitIdx := j, seq := r }) :
    runSteps (k + 1) (s.keyed es i q) =
      runSteps k (s.keyed (es ++ newEvents s.pin.toNat s.period.toNat [y]) j r) := by
  rw [newEvents_cons, newEvents_nil, List.append_nil, hy]
  exact runSteps_keyed he es i q h

/-- The next OLD or COGEX symbol. -/
theorem runSteps_shortSymbol (y : ShortSymbol) (i : BitVec 5) (q : Seq) {n k : Nat} {j : BitVec 5} {r : Seq}
    {d : Nat × Nat} (hy : oldDurations s.period.toNat y = d)
    (h : SendRow n (s.keyed es i q) { (s.keyed es i q).pulsed d with work.bitIdx := j, seq := r }) :
    runSteps (k + 1) (s.keyed es i q) =
      runSteps k (s.keyed (es ++ shortEvents s.pin.toNat s.period.toNat [y]) j r) := by
  rw [shortEvents_cons, shortEvents_nil, List.append_nil, hy]
  exact runSteps_keyed he es i q h

end Symbols

/-- The end of a datagram (row 19). -/
theorem runSteps_gap {s : State} (hn : s.work.repCnt ≠ 0) (es : List Event) (i : BitVec 5) (k : Nat) :
    runSteps (k + 1) (s.keyed es i .gap) = runSteps k (s.sent es i) := by
  have hrow := SendRow.gap (s := s.keyed es i .gap) rfl hn
  rw [runSteps_row (k := k) (.silent (by decide) hrow)]
  simp [State.keyed, State.sent]

/-- The beginning of a datagram: the repeat test (row 6) and the start marker, by whichever row sends it. -/
theorem runSteps_start {s : State} (he : CanEmit s) (hq : s.seq = .repTest) (hn : s.work.repCnt ≠ 0) {n : Nat}
    {d : Nat × Nat} {i : BitVec 5} (k : Nat)
    (h : SendRow n { s with seq := .start }
      { State.pulsed d { s with seq := .start } with work.bitIdx := i, seq := .bits }) :
    runSteps (k + 2) s = runSteps k (s.keyed (pulseEvents s.pin.toNat s.period.toNat d) i .bits) := by
  rw [runSteps_row (.silent (by decide) (.repeatAgain hq hn))]
  exact runSteps_row (.emitting he h)

/-! ### A NEW datagram -/

/-- The first bit sent of a field is its highest. -/
theorem msbFirst_succ {w : Nat} (v : BitVec w) (lo n : Nat) :
    msbFirst v lo (n + 1) = .bit (v.getLsbD (lo + n)) :: msbFirst v lo n := by
  simp [msbFirst, List.range_succ]

/-- A field is sent as its high part, then its low part. -/
theorem msbFirst_append {w : Nat} (v : BitVec w) (lo m n : Nat) :
    msbFirst v (lo + n) m ++ msbFirst v lo n = msbFirst v lo (n + m) := by
  induction m with
  | zero => rfl
  | succ m ih => rw [msbFirst_succ, List.cons_append, ih, ← Nat.add_assoc n, msbFirst_succ, Nat.add_assoc]

/-- The last bit sent of a field is its lowest. -/
theorem msbFirst_last {w : Nat} (v : BitVec w) (n : Nat) :
    msbFirst v 1 n ++ [.bit (v.getLsbD 0)] = msbFirst v 0 (n + 1) := by
  rw [Nat.add_comm, ← msbFirst_append]
  rfl

/-- The symbols between the markers of a NEW datagram: the whole Frame or, with a dim level, its high bits, the dimmer
indicator, its low bits and the dim bits (R105). -/
def newPayload (frame : Frame) (dim : DimLevel) : List NewSymbol :=
  if dim = 0 then msbFirst frame 0 32
  else msbFirst frame 5 27 ++ ([.dimmer] ++ msbFirst frame 0 4 ++ msbFirst dim 0 4)

theorem newDatagram_eq (frame : Frame) (dim : DimLevel) :
    newDatagram frame dim = .start :: newPayload frame dim ++ [.stop] := by
  have h : msbFirst frame 5 27 ++ msbFirst frame 0 5 = msbFirst frame 0 32 := msbFirst_append frame 0 27 5
  by_cases hd : dim = 0
  · rw [newDatagram, newPayload, if_neg (not_not.2 hd), if_pos hd, List.append_assoc [NewSymbol.start], h]; rfl
  · rw [newDatagram, newPayload, if_pos hd, if_neg hd, List.append_assoc [NewSymbol.start]]; rfl

section New

variable {s : State} (he : CanEmit s) (hp : s.work.proto = .new) (es : List Event) (i : BitVec 5) (k : Nat)
include he

/-- Row 11. -/
theorem runSteps_newBit (hp : s.work.proto = .new) (hi : 0 < i.toNat) (hd : ¬(i = 4 ∧ s.work.dim ≠ 0)) :
    runSteps (k + 1) (s.keyed es i .bits) = runSteps k
      (s.keyed (es ++ newEvents s.pin.toNat s.period.toNat [.bit (s.work.frame.getLsbD i.toNat)]) (i - 1) .bits) :=
  runSteps_newSymbol he es _ i .bits (newDurations_bit _ _) (.newBit rfl hp hi hd)

/-- Row 10. -/
theorem runSteps_dimmer (hp : s.work.proto = .new) (hd : s.work.dim ≠ 0) :
    runSteps (k + 1) (s.keyed es 4 .bits) = runSteps k
      (s.keyed (es ++ newEvents s.pin.toNat s.period.toNat [.dimmer]) 3 .bits) :=
  runSteps_newSymbol he es _ 4 .bits (newDurations_dimmer _) (.dimmer rfl hp rfl hd)

/-- Row 12. -/
theorem runSteps_newLastOnOff (hp : s.work.proto = .new) (hd : s.work.dim = 0) :
    runSteps (k + 1) (s.keyed es 0 .bits) = runSteps k
      (s.keyed (es ++ newEvents s.pin.toNat s.period.toNat [.bit (s.work.frame.getLsbD 0)]) 0 .stop) :=
  runSteps_newSymbol he es _ 0 .bits (newDurations_bit _ _) (.newLastOnOff rfl hp rfl hd)

/-- Row 13. -/
theorem runSteps_newLastDim (hp : s.work.proto = .new) (hd : s.work.dim ≠ 0) :
    runSteps (k + 1) (s.keyed es 0 .bits) = runSteps k
      (s.keyed (es ++ newEvents s.pin.toNat s.period.toNat [.bit (s.work.frame.getLsbD 0)]) 3 .dimBits) :=
  runSteps_newSymbol he es _ 0 .bits (newDurations_bit _ _) (.newLastDim rfl hp rfl hd)

/-- Row 16. -/
theorem runSteps_dimBit (hi : 0 < i.toNat) (hr : i.toNat ≤ 3) :
    runSteps (k + 1) (s.keyed es i .dimBits) = runSteps k
      (s.keyed (es ++ newEvents s.pin.toNat s.period.toNat [.bit (s.work.dim.getLsbD i.toNat)]) (i - 1) .dimBits) :=
  runSteps_newSymbol he es _ i .dimBits (newDurations_bit _ _) (.dimBit rfl hi hr)

/-- Row 17. -/
theorem runSteps_dimLast :
    runSteps (k + 1) (s.keyed es 0 .dimBits) = runSteps k
      (s.keyed (es ++ newEvents s.pin.toNat s.period.toNat [.bit (s.work.dim.getLsbD 0)]) 0 .stop) :=
  runSteps_newSymbol he es _ 0 .dimBits (newDurations_bit _ _) (.dimLast rfl rfl)

/-- Row 18. -/
theorem runSteps_stop :
    runSteps (k + 1) (s.keyed es i .stop) = runSteps k
      (s.keyed (es ++ newEvents s.pin.toNat s.period.toNat [.stop]) i .gap) :=
  runSteps_newSymbol he es _ i .stop (newDurations_stop _) (.stop rfl)

/-- Row 11 repeated: the Frame bits `lo + n` down to `lo + 1`, where no dimmer indicator falls between. -/
theorem runSteps_newBits (hp : s.work.proto = .new) {lo n : Nat} (hlo : lo + n ≤ 31)
    (hd : s.work.dim = 0 ∨ 4 ≤ lo ∨ lo + n < 4) :
    runSteps n (s.keyed es (BitVec.ofNat 5 (lo + n)) .bits) =
      .next (s.keyed (es ++ newEvents s.pin.toNat s.period.toNat (msbFirst s.work.frame (lo + 1) n))
        (BitVec.ofNat 5 lo) .bits) := by
  induction n generalizing es with
  | zero => simp [msbFirst, runSteps_zero]
  | succ n ih =>
    have hi : (BitVec.ofNat 5 (lo + (n + 1))).toNat = lo + (n + 1) := Nat.mod_eq_of_lt (by omega)
    have hj : BitVec.ofNat 5 (lo + (n + 1)) - 1 = BitVec.ofNat 5 (lo + n) := by bv_omega
    have hnot : ¬(BitVec.ofNat 5 (lo + (n + 1)) = 4 ∧ s.work.dim ≠ 0) := by
      rintro ⟨h4, hdim⟩
      have h4 : (BitVec.ofNat 5 (lo + (n + 1))).toNat = 4 := congrArg BitVec.toNat h4
      obtain hd | hd | hd := hd
      · exact hdim hd
      all_goals omega
    rw [runSteps_newBit he es _ n hp (by omega) hnot, hi, hj, ih _ (by omega) (hd.imp_right (Or.imp_right (by omega))),
      msbFirst_succ, List.append_assoc, ← newEvents_append, List.singleton_append, Nat.add_right_comm lo 1 n,
      Nat.add_assoc lo n 1]

/-- Row 16 repeated: the dim bits `n` down to 1. -/
theorem runSteps_dimBits {n : Nat} (hn : n ≤ 3) :
    runSteps n (s.keyed es (BitVec.ofNat 5 n) .dimBits) =
      .next (s.keyed (es ++ newEvents s.pin.toNat s.period.toNat (msbFirst s.work.dim 1 n)) 0 .dimBits) := by
  induction n generalizing es with
  | zero => simp [msbFirst, runSteps_zero]
  | succ n ih =>
    have hi : (BitVec.ofNat 5 (n + 1)).toNat = n + 1 := Nat.mod_eq_of_lt (by omega)
    have hj : BitVec.ofNat 5 (n + 1) - 1 = BitVec.ofNat 5 n := by bv_omega
    rw [runSteps_dimBit he es _ n (by omega) (by omega), hi, hj, ih _ (by omega), msbFirst_succ, List.append_assoc,
      ← newEvents_append, List.singleton_append, Nat.add_comm 1 n]

/-- The payload without a dim level. -/
theorem runSteps_onOffPayload (hp : s.work.proto = .new) (hd : s.work.dim = 0) :
    runSteps 32 (s.keyed es 31 .bits) =
      .next (s.keyed (es ++ newEvents s.pin.toNat s.period.toNat (msbFirst s.work.frame 0 32)) 0 .stop) := by
  refine runSteps_trans (k := 1) (runSteps_newBits he es hp (lo := 0) (n := 31) le_rfl (.inl hd)) ?_
  refine (runSteps_newLastOnOff he _ 0 hp hd).trans ?_
  rw [runSteps_zero, List.append_assoc, ← newEvents_append, msbFirst_last]

/-- The payload with a dim level. -/
theorem runSteps_dimPayload (hp : s.work.proto = .new) (hd : s.work.dim ≠ 0) :
    runSteps 36 (s.keyed es 31 .bits) =
      .next (s.keyed (es ++ newEvents s.pin.toNat s.period.toNat
        (msbFirst s.work.frame 5 27 ++ ([.dimmer] ++ msbFirst s.work.frame 0 4 ++ msbFirst s.work.dim 0 4))) 0
        .stop) := by
  refine runSteps_trans (k := 9) (runSteps_newBits he es hp (lo := 4) (n := 27) le_rfl (.inr (.inl le_rfl))) ?_
  refine (runSteps_dimmer he _ 8 hp hd).trans ?_
  refine runSteps_trans (k := 5) (runSteps_newBits he _ hp (lo := 0) (n := 3) (by decide) (.inr (.inr (by decide)))) ?_
  refine (runSteps_newLastDim he _ 4 hp hd).trans ?_
  refine runSteps_trans (k := 1) (runSteps_dimBits he _ le_rfl) ?_
  refine (runSteps_dimLast he _ 0).trans ?_
  simp only [runSteps_zero, ← msbFirst_last, newEvents_append, List.append_assoc]

/-- The payload, by its branch. -/
theorem runSteps_newPayload (hp : s.work.proto = .new) :
    runSteps (if s.work.dim = 0 then 32 else 36) (s.keyed es 31 .bits) =
      .next (s.keyed (es ++ newEvents s.pin.toNat s.period.toNat (newPayload s.work.frame s.work.dim)) 0 .stop) := by
  unfold newPayload
  split
  · next hd => exact runSteps_onOffPayload he es hp hd
  · next hd => exact runSteps_dimPayload he es hp hd

end New

/-- One NEW datagram and its inter-repeat delay, from the repeat test to the next. -/
theorem runSteps_newDatagram {s : State} (he : CanEmit s) (hp : s.work.proto = .new) (hq : s.seq = .repTest)
    (hn : s.work.repCnt ≠ 0) :
    runSteps (if s.work.dim = 0 then 36 else 40) s =
      .next (s.sent (newDatagramEvents s.pin.toNat s.period.toNat s.work.frame s.work.dim) 0) := by
  have hk : (if s.work.dim = 0 then 36 else 40) = (if s.work.dim = 0 then 32 else 36) + 2 + 2 := by split <;> rfl
  rw [hk]
  refine (runSteps_start he hq hn _ (.startNew rfl hp)).trans ?_
  refine runSteps_trans (runSteps_newPayload he _ hp) ?_
  rw [runSteps_stop he, runSteps_gap hn, runSteps_zero, newDatagramEvents_eq, newDatagram_eq, newEvents_append,
    newEvents_cons]
  rfl

/-! ### An OLD or COGEX datagram -/

/-- An OLD or COGEX datagram: the start marker and the Frame bits 0 to 11 (R117). -/
theorem shortDatagram_eq (frame : Frame) : shortDatagram frame =
    .start :: (List.range' 0 11).map (fun j => .bit (frame.getLsbD j)) ++ [.bit (frame.getLsbD 11)] := rfl

section Short

variable {s : State} (he : CanEmit s) (hp : s.work.proto = .old ∨ s.work.proto = .cogex) (es : List Event)
include he hp

/-- Row 14. -/
theorem runSteps_shortBit (i : BitVec 5) (k : Nat) (hi : i.toNat < 11) :
    runSteps (k + 1) (s.keyed es i .bits) = runSteps k
      (s.keyed (es ++ shortEvents s.pin.toNat s.period.toNat [.bit (s.work.frame.getLsbD i.toNat)]) (i + 1) .bits) :=
  runSteps_shortSymbol he es _ i .bits (oldDurations_bit _ _) (.shortBit rfl hp hi)

/-- Row 15. -/
theorem runSteps_shortLast (k : Nat) :
    runSteps (k + 1) (s.keyed es 11 .bits) = runSteps k
      (s.keyed (es ++ shortEvents s.pin.toNat s.period.toNat [.bit (s.work.frame.getLsbD 11)]) 11 .gap) :=
  runSteps_shortSymbol he es _ 11 .bits (oldDurations_bit _ _) (.shortLast rfl hp rfl)

/-- Row 14 repeated: the `n` Frame bits from bit `lo` up. -/
theorem runSteps_shortBits {lo n : Nat} (hlo : lo + n ≤ 11) :
    runSteps n (s.keyed es (BitVec.ofNat 5 lo) .bits) =
      .next (s.keyed (es ++ shortEvents s.pin.toNat s.period.toNat
        ((List.range' lo n).map fun j => .bit (s.work.frame.getLsbD j))) (BitVec.ofNat 5 (lo + n)) .bits) := by
  induction n generalizing es lo with
  | zero => simp [runSteps_zero]
  | succ n ih =>
    have hi : (BitVec.ofNat 5 lo).toNat = lo := Nat.mod_eq_of_lt (by omega)
    have hj : BitVec.ofNat 5 lo + 1 = BitVec.ofNat 5 (lo + 1) := by bv_omega
    rw [runSteps_shortBit he hp es _ n (by omega), hi, hj, ih _ (by omega), List.range'_succ, List.append_assoc,
      ← shortEvents_append, List.singleton_append, List.map_cons, Nat.add_right_comm, Nat.add_assoc]

/-- One OLD or COGEX datagram and its inter-repeat delay, from the repeat test to the next. -/
theorem runSteps_shortDatagram (hq : s.seq = .repTest) (hn : s.work.repCnt ≠ 0) :
    runSteps 15 s = .next (s.sent (oldDatagramEvents s.pin.toNat s.period.toNat s.work.frame) 11) := by
  refine (runSteps_start he hq hn 13 (.startShort rfl hp)).trans ?_
  refine runSteps_trans (k := 2) (runSteps_shortBits (s := s) he hp _ (lo := 0) (n := 11) le_rfl) ?_
  refine (runSteps_shortLast he hp _ 1).trans ?_
  rw [runSteps_gap hn, runSteps_zero, oldDatagramEvents_eq, shortDatagram_eq, shortEvents_append, shortEvents_cons]
  rfl

end Short

end Sys2Proof

/-! # The sequencer performs the whole command

The repeat loop and the two halves of the guard around a datagram's run, and with them R254: the rows together are the
whole command. What a send does is then read off `bigStep`. -/

namespace Sys2Proof.Machine

/-- The events of one datagram, by protocol; COGEX datagrams are those of OLD (R191). -/
def datagramEvents (proto : Proto) (p T : Nat) (frame : Frame) (dim : DimLevel) : List Event :=
  match proto with
  | .new => newDatagramEvents p T frame dim
  | .old | .cogex => oldDatagramEvents p T frame

/-- The sequencer steps of one datagram (R252). -/
def datagramSteps (proto : Proto) (dim : DimLevel) : Nat :=
  match proto with
  | .new => if dim = 0 then 36 else 40
  | .old | .cogex => 15

/-- The events of the datagram that is sent from `s`. -/
def State.datagram (s : State) : List Event :=
  datagramEvents s.work.proto s.pin.toNat s.period.toNat s.work.frame s.work.dim

/-- The state at the guard's exit, after `n` datagrams with the events `es` have been sent from `s`. -/
def State.repeated (s : State) (es : List Event) (n : Nat) (i : BitVec 5) : State :=
  { s with
    pads := if n = 0 then s.pads else PadSpace.write s.pads s.pin.toNat { s.pad s.pin.toNat with lvl := .low }
    trace := s.trace ++ (List.replicate n (es ++ [.delayMs s.rdelay.toNat])).flatten
    work.repCnt := 0, work.bitIdx := i, seq := .restOpMode }

/-- The state at the first repeat test: the radio's values saved, then transmit mode forced (R201, R202, R240). -/
def State.entered (s : State) : State :=
  { s with
    trace := s.trace ++ guardEnterEvents s
    radio := ⟨s.platform.valTx, s.platform.valOokContNosync⟩
    work.savedOpMode := s.radio.opMode, work.savedModul := s.radio.modul, work.repCnt := s.repeats
    seq := .repTest }

/-! Sending a datagram and entering the guard leave what the next datagram is made of. -/

section Frame

variable (s : State) (es : List Event) (i : BitVec 5)

@[simp] theorem State.sent_pin : (s.sent es i).pin = s.pin := by simp [State.sent, State.keyed]
@[simp] theorem State.sent_period : (s.sent es i).period = s.period := by simp [State.sent, State.keyed]
@[simp] theorem State.sent_platform : (s.sent es i).platform = s.platform := by simp [State.sent, State.keyed]
@[simp] theorem State.sent_frame : (s.sent es i).work.frame = s.work.frame := by simp [State.sent, State.keyed]
@[simp] theorem State.sent_dim : (s.sent es i).work.dim = s.work.dim := by simp [State.sent, State.keyed]
@[simp] theorem State.sent_proto : (s.sent es i).work.proto = s.work.proto := by simp [State.sent, State.keyed]
@[simp] theorem State.sent_seq : (s.sent es i).seq = .repTest := by simp [State.sent, State.keyed]
@[simp] theorem State.sent_repCnt : (s.sent es i).work.repCnt = s.work.repCnt - 1 := by simp [State.sent, State.keyed]
@[simp] theorem State.sent_canEmit : CanEmit (s.sent es i) ↔ CanEmit s := by simp [CanEmit, pinValid_iff]
@[simp] theorem State.sent_datagram : (s.sent es i).datagram = s.datagram := by simp [State.datagram]

@[simp] theorem State.entered_pin : s.entered.pin = s.pin := rfl
@[simp] theorem State.entered_period : s.entered.period = s.period := rfl
@[simp] theorem State.entered_platform : s.entered.platform = s.platform := rfl
@[simp] theorem State.entered_frame : s.entered.work.frame = s.work.frame := rfl
@[simp] theorem State.entered_dim : s.entered.work.dim = s.work.dim := rfl
@[simp] theorem State.entered_proto : s.entered.work.proto = s.work.proto := rfl
@[simp] theorem State.entered_seq : s.entered.seq = .repTest := rfl
@[simp] theorem State.entered_repCnt : s.entered.work.repCnt = s.repeats := rfl
@[simp] theorem State.entered_canEmit : CanEmit s.entered ↔ CanEmit s := by simp [CanEmit, pinValid_iff]
@[simp] theorem State.entered_datagram : s.entered.datagram = s.datagram := by simp [State.datagram]

end Frame

/-- The first datagram of a repetition, then the others. -/
theorem State.repeated_succ (s : State) (es : List Event) (n : Nat) (i j : BitVec 5) :
    (s.sent es i).repeated es n j = s.repeated es (n + 1) j := by
  cases n <;> simp [State.repeated, State.sent, State.keyed, State.pad, List.replicate_succ]

end Sys2Proof.Machine

namespace Sys2Proof

open Machine

/-- One datagram, of any protocol. -/
theorem runSteps_datagram {s : State} (he : CanEmit s) (hq : s.seq = .repTest) (hn : s.work.repCnt ≠ 0) :
    ∃ i, runSteps (datagramSteps s.work.proto s.work.dim) s = .next (s.sent s.datagram i) := by
  cases hp : s.work.proto with
  | new =>
    simp only [State.datagram, datagramSteps, datagramEvents, hp]
    exact ⟨_, runSteps_newDatagram he hp hq hn⟩
  | old =>
    simp only [State.datagram, datagramSteps, datagramEvents, hp]
    exact ⟨_, runSteps_shortDatagram he (.inl hp) hq hn⟩
  | cogex =>
    simp only [State.datagram, datagramSteps, datagramEvents, hp]
    exact ⟨_, runSteps_shortDatagram he (.inr hp) hq hn⟩

/-- The repeat loop, by induction on the datagrams still to send. -/
theorem runSteps_repeats {s : State} (he : CanEmit s) (hq : s.seq = .repTest) {n : Nat}
    (hn : s.work.repCnt.toNat = n) :
    ∃ i, runSteps (n * datagramSteps s.work.proto s.work.dim + 1) s = .next (s.repeated s.datagram n i) := by
  induction n generalizing s with
  | zero =>
    have hz : s.work.repCnt = 0 := BitVec.eq_of_toNat_eq hn
    refine ⟨s.work.bitIdx, ?_⟩
    rw [Nat.zero_mul, runSteps_row (.silent (by decide) (.repeatEnd hq hz)), runSteps_zero]
    simp [State.repeated, ← hz]
  | succ n ih =>
    have hne : s.work.repCnt ≠ 0 := by bv_omega
    obtain ⟨i, hi⟩ := runSteps_datagram he hq hne
    have hleft : (s.sent s.datagram i).work.repCnt.toNat = n := by
      rw [State.sent_repCnt]
      bv_omega
    obtain ⟨j, hj⟩ := ih ((State.sent_canEmit s s.datagram i).2 he) rfl hleft
    rw [State.sent_proto, State.sent_dim, State.sent_datagram, State.repeated_succ] at hj
    refine ⟨j, ?_⟩
    rw [Nat.succ_mul, Nat.add_right_comm, Nat.add_comm]
    exact runSteps_trans hi hj

/-- The guard's entry (rows 2 to 5). -/
theorem runSteps_guardEnter {s : State} (hq : s.seq = .saveOpMode) : runSteps 4 s = .next s.entered := by
  rw [runSteps_row (.silent (by decide) (.saveOpMode hq)), runSteps_row (.silent (by decide) (.saveModul rfl)),
    runSteps_row (.silent (by decide) (.setModul rfl)), runSteps_row (.silent (by decide) (.setOpMode rfl)),
    runSteps_zero]
  simp [State.entered, guardEnterEvents]

/-- The guard's exit and the end of the send (rows 20 to 22). -/
theorem runSteps_guardExit {s : State} (hq : s.seq = .restOpMode) :
    runSteps 3 s = .next (endSend { s with
      trace := s.trace ++ [.regWrite s.platform.addrOpMode s.work.savedOpMode,
        .regWrite s.platform.addrModul s.work.savedModul]
      radio := ⟨s.work.savedOpMode, s.work.savedModul⟩ }) := by
  rw [runSteps_row (.silent (by decide) (.restOpMode hq)), runSteps_row (.silent (by decide) (.restModul rfl)),
    runSteps_row (.silent (by decide) (.done rfl)), runSteps_zero]
  simp [endSend]

/-- From acceptance to `IDLE`: the guard around the repeat loop (R252, R254). -/
theorem runSteps_acceptSend {s : State} (he : CanEmit s) (p : Proto) (frame : Frame) (dim : DimLevel) :
    runSteps (8 + s.repeats.toNat * datagramSteps p dim) (acceptSend p frame dim s) =
      .next (afterSend s (datagramEvents p s.pin.toNat s.period.toNat frame dim)) := by
  have hdg : (acceptSend p frame dim s).datagram = datagramEvents p s.pin.toNat s.period.toNat frame dim := rfl
  obtain ⟨i, hi⟩ := runSteps_repeats (n := s.repeats.toNat)
    ((State.entered_canEmit (acceptSend p frame dim s)).2 he) rfl rfl
  rw [State.entered_datagram, hdg] at hi
  generalize datagramEvents p s.pin.toNat s.period.toNat frame dim = es at hi ⊢
  rw [show 8 + s.repeats.toNat * datagramSteps p dim = 4 + ((s.repeats.toNat * datagramSteps p dim + 1) + 3) by omega]
  refine runSteps_trans (runSteps_guardEnter rfl) (runSteps_trans hi ?_)
  rw [runSteps_guardExit rfl]
  simp [afterSend, sendEvents, bodyEvents, State.repeated, State.entered, acceptSend, performed, endSend,
    guardExitEvents, guardEnterEvents, State.pad, ← BitVec.toNat_inj]

/-! ### A command offered to the open port -/

/-- The port accepts an offered command and performs it. -/
theorem step_offer {s : State} (ho : portOpen s = true) (i : Instr) : step (offer (encode i) s) = exec i s := by
  rw [step_of_portOpen (s := offer (encode i) s) ho]
  show acceptWord (encode i) s = exec i s
  rw [acceptWord, decode_encode]

theorem andThen_runSteps_zero (r : Result) : andThen r (runSteps 0) = r := by cases r <;> rfl

/-- The steps of a command after its acceptance. -/
theorem commandSteps_eq (i : Instr) (s : State) : commandSteps i s =
    (if isSend i = true ∧ s.pinValid = true ∧ commandFault i s = none
      then 8 + s.repeats.toNat * stepsPerRepeat i else 0) + 1 := by
  unfold commandSteps
  split <;> omega

/-- A send from its acceptance on: refused, faulted, or run to its end. -/
theorem runSteps_beginSend (p : Proto) (fields : Option Cause) (frame : Frame) (dim : DimLevel) (s : State) :
    andThen (beginSend p fields frame dim s)
        (runSteps (if s.pinValid = true ∧ sendFault fields s = none
          then 8 + s.repeats.toNat * datagramSteps p dim else 0)) =
      wholeSend fields (datagramEvents p s.pin.toNat s.period.toNat frame dim) s := by
  obtain ⟨hv, e⟩ | ⟨hv, c, hc, e⟩ | ⟨hv, hn, e⟩ := beginSend_cases p fields frame dim s
  · simp [e, wholeSend, hv]
  · simp [e, wholeSend, hv, hc, runSteps_zero]
  · obtain ⟨-, hT⟩ := sendFault_eq_none.1 hn
    rw [e, if_pos ⟨hv, hn⟩, andThen_next, runSteps_acceptSend ⟨hv, hT⟩]
    simp [wholeSend, hv, hn]

/-- R254: the steps of an offered command are the whole command. -/
theorem runSteps_offer_eq_bigStep {s : State} (ho : portOpen s = true) (i : Instr) :
    runSteps (commandSteps i s) (offer (encode i) s) = bigStep i s := by
  rw [commandSteps_eq, runSteps_succ, step_offer ho]
  cases i with
  | setPin | setTiming => exact andThen_runSteps_zero _
  | sendNew addr unit on group dim =>
    simp only [isSend, true_and]
    exact runSteps_beginSend .new (newFieldFault addr unit group dim) (newFrame addr unit on group) (newDim on dim) s
  | sendOld house unit on =>
    simp only [isSend, true_and]
    exact runSteps_beginSend .old (oldFieldFault house unit) (oldFrame s.platform house unit on) 0 s
  | sendCogex house unit on =>
    simp only [isSend, true_and, bigStep, cogexDatagramEvents_eq]
    exact runSteps_beginSend .cogex (cogexFieldFault house unit) (cogexFrame s.platform house unit on) 0 s

/-! ### Sends that pass validation -/

theorem newFieldFault_eq_none {addr : BitVec 32} {unit : Byte} {on group : Bool} {dim : Byte}
    (h : (Instr.sendNew addr unit on group dim).wellFormed) : newFieldFault addr unit group dim = none := by
  obtain ⟨haddr, hunit, hdim⟩ := h
  have hu : ¬(group = false ∧ 15 < unit.toNat) := fun ⟨hg, hlt⟩ => Nat.not_le.2 hlt (hunit hg)
  rw [newFieldFault, if_neg (by omega), if_neg hu, if_neg (by omega)]

theorem oldFieldFault_eq_none {house unit : Byte} {on : Bool} (h : (Instr.sendOld house unit on).wellFormed) :
    oldFieldFault house unit = none := by
  obtain ⟨hhouse, hunit⟩ := h
  have hA : Config.charA.toNat = 65 := rfl
  rw [oldFieldFault, if_neg (by omega), if_neg (by omega)]

theorem cogexFieldFault_eq_none {house unit : Byte} {on : Bool}
    (h : (Instr.sendCogex house unit on).wellFormed) : cogexFieldFault house unit = none := by
  obtain ⟨hhouse, hunit⟩ := h
  rw [cogexFieldFault, if_neg (by omega), if_neg (by omega)]

/-- A legal command raises no fault when the period exceeds the correction (R269, R270). -/
theorem commandFault_eq_none {i : Instr} {s : State} (hi : i.wellFormed) (hT : 150 < s.period.toNat) :
    commandFault i s = none := by
  cases i with
  | setPin | setTiming => rfl
  | sendNew => exact sendFault_eq_none.2 ⟨newFieldFault_eq_none hi, hT⟩
  | sendOld => exact sendFault_eq_none.2 ⟨oldFieldFault_eq_none hi, hT⟩
  | sendCogex => exact sendFault_eq_none.2 ⟨cogexFieldFault_eq_none hi, hT⟩

/-- The outcome of a send that passes validation does not depend on the working registers (R37). -/
theorem wholeSend_work {fields : Option Cause} (dg : List Event) {s : State} (w : Working)
    (hf : sendFault fields s = none) : wholeSend fields dg { s with work := w } = wholeSend fields dg s := by
  have hf' : sendFault fields { s with work := w } = none := hf
  unfold wholeSend
  rw [hf, hf']
  rfl

theorem bigStep_work {i : Instr} {s : State} (w : Working) (hs : isSend i = true) (hf : commandFault i s = none) :
    bigStep i { s with work := w } = bigStep i s := by
  cases i with
  | setPin | setTiming => cases hs
  | sendNew | sendOld | sendCogex => exact wholeSend_work _ w hf

/-- Settles O50: by R254 the run is the whole command, which does not look at the working registers. -/
theorem workingRegistersCarryNothingBetweenSends : Obligations.WorkingRegistersCarryNothingBetweenSends := by
  intro s i w ho hs hi _ hT
  have hsteps : commandSteps i { s with work := w } = commandSteps i s := by cases i <;> rfl
  rw [← hsteps, runSteps_offer_eq_bigStep (s := { s with work := w }) ho, hsteps, runSteps_offer_eq_bigStep ho]
  exact bigStep_work w hs (commandFault_eq_none hi hT)

end Sys2Proof

/-! # The encoding

The decoder and the encoder are inverse to one another, and the decoder follows the match and mask table. -/

namespace Sys2Proof

open Machine

/-! ### The arms of the decoder -/

theorem decode_eq_decodeSetPin {w : CommandWord} (h : opcodeOf w = 0x01#8) : decode w = decodeSetPin w := by
  simp [decode, h]
theorem decode_eq_decodeSetTiming {w : CommandWord} (h : opcodeOf w = 0x02#8) : decode w = decodeSetTiming w := by
  simp [decode, h]
theorem decode_eq_decodeSendNew {w : CommandWord} (h : opcodeOf w = 0x10#8) : decode w = decodeSendNew w := by
  simp [decode, h]
theorem decode_eq_decodeSendOld {w : CommandWord} (h : opcodeOf w = 0x11#8) : decode w = decodeSendOld w := by
  simp [decode, h]
theorem decode_eq_decodeSendCogex {w : CommandWord} (h : opcodeOf w = 0x12#8) : decode w = decodeSendCogex w := by
  simp [decode, h]

/-- Step 1 of R97: a word without an assigned opcode is rejected. -/
theorem decode_of_unassigned {w : CommandWord} (h : opcodeOf w ∉ [0x01#8, 0x02#8, 0x10#8, 0x11#8, 0x12#8]) :
    decode w = .error .unassignedOpcode := by
  simp only [List.mem_cons, List.not_mem_nil, or_false, not_or] at h
  obtain ⟨h1, h2, h3, h4, h5⟩ := h
  rw [decode, if_neg h1, if_neg h2, if_neg h3, if_neg h4, if_neg h5]

/-- Step 2 of R97 rejects a word with a set bit in the reserved field. -/
theorem checkReserved_of_set_bit {w : CommandWord} {lo len k : Nat} (i : Instr) (hb : w.getLsbD k = true)
    (h1 : lo ≤ k) (h2 : k < lo + len) : checkReserved w lo len i = .error .reservedBitSet := by
  refine if_neg fun hz => ?_
  rw [getLsbD_of_field hz h1 h2] at hb
  simp at hb

/-! ### A word as the union of its fields -/

/-- The bits of a word from bit `lo` on, in their places; the bits below are zero. -/
def fromBit (w : CommandWord) (lo : Nat) : CommandWord := w >>> lo <<< lo

theorem getLsbD_fromBit (w : CommandWord) (lo k : Nat) :
    (fromBit w lo).getLsbD k = (decide (lo ≤ k) && w.getLsbD k) := by
  rw [fromBit, BitVec.getLsbD_shiftLeft, BitVec.getLsbD_ushiftRight]
  rcases Nat.lt_or_ge k lo with h | h
  · simp [h]
  · rcases Nat.lt_or_ge k 64 with hk | hk
    · simp [h, hk, Nat.not_lt.2 h, Nat.add_sub_cancel' h]
    · simp [hk]

theorem fromBit_zero (w : CommandWord) : fromBit w 0 = w := by simp [fromBit]

/-- The field next below, put in its place. -/
theorem fromBit_or_place_field {w : CommandWord} {lo len mid : Nat} (h : lo + len = mid) :
    fromBit w mid ||| place (field w lo len) lo = fromBit w lo := by
  apply BitVec.eq_of_getLsbD_eq
  intro k hk
  rw [BitVec.getLsbD_or, getLsbD_fromBit, getLsbD_fromBit, getLsbD_place, getLsbD_field]
  rcases Nat.lt_or_ge k lo with h1 | h1
  · simp [show ¬mid ≤ k by omega, show ¬lo ≤ k by omega]
  · rw [Nat.add_sub_cancel' h1]
    rcases Nat.lt_or_ge k mid with h2 | h2
    · simp [h1, hk, show k - lo < len by omega]
    · simp [h1, h2]

/-- A flag next below, put in its place. -/
theorem fromBit_or_place_flag {w : CommandWord} {lo mid : Nat} (h : lo + 1 = mid) :
    fromBit w mid ||| place (BitVec.ofBool (w.getLsbD lo)) lo = fromBit w lo := by
  rw [← fromBit_or_place_field h]
  congr 2
  apply BitVec.eq_of_getLsbD_eq
  intro j hj
  obtain rfl : j = 0 := by omega
  rw [getLsbD_field]
  simp

/-- The opcode alone is the word down to a reserved field that is zero. -/
theorem place_opcodeOf {w : CommandWord} {lo len : Nat} (hr : field w lo len = 0#len) (h : lo + len = 56) :
    place (opcodeOf w) 56 = fromBit w lo := by
  have h64 : fromBit w 64 = 0#64 := by simp [fromBit]
  have h56 : place (opcodeOf w) 56 = fromBit w 56 := by
    rw [← fromBit_or_place_field (show 56 + 8 = 64 from rfl), h64, BitVec.zero_or, opcodeOf]
  rw [h56, ← fromBit_or_place_field h, hr]
  simp [place]

/-- Opcode, reserved zeros and fields are all the bits of a word, so no bit of a decoded word is ignored (R97). -/
theorem encode_of_decode {w : CommandWord} {i : Instr} (h : decode w = .ok i) : encode i = w := by
  unfold decode at h
  split_ifs at h with hop hop hop hop hop
  all_goals
    obtain ⟨hr, rfl⟩ := checkReserved_eq_ok.1 h
    rw [encode, ← hop]
    simp only [place_opcodeOf hr rfl, fromBit_or_place_field, fromBit_or_place_flag, fromBit_zero]

/-- Settles O1: each field is read where it was placed. -/
theorem decodeOfEncodeIsTheCommand : Obligations.DecodeOfEncodeIsTheCommand := decode_encode

/-- Settles O2: the opcode, the zero reserved bits and the fields make up the word. -/
theorem encodeOfDecodeIsTheWord : Obligations.EncodeOfDecodeIsTheWord := fun _ _ => encode_of_decode

/-- Settles O4: the decoder, run on the seven words. -/
theorem writtenOutWordsDecode : Obligations.WrittenOutWordsDecode := by
  unfold Obligations.WrittenOutWordsDecode; decide

/-! ### Accepting a word -/

theorem acceptWord_of_ok {w : CommandWord} {i : Instr} (h : decode w = .ok i) (s : State) :
    acceptWord w s = exec i s := by
  rw [acceptWord, h]

theorem acceptWord_of_error {w : CommandWord} {e : DecodeError} (h : decode w = .error e) (s : State) :
    acceptWord w s = .next (raise .illegal s) := by
  rw [acceptWord, h]

/-- With the port open a step accepts the word offered first. -/
theorem step_word {s : State} {w : CommandWord} {rest : List Input} (ho : portOpen s = true)
    (hi : s.inputs = .word w :: rest) : step s = acceptWord w { s with inputs := rest } := by
  rw [step_of_portOpen ho, takeInput, hi]

/-- Settles O7: the open port accepts the word offered first, and an accepted word performs what it decodes to. -/
theorem stepPerformsTheDecodedCommand : Obligations.StepPerformsTheDecodedCommand := by
  intro s w i rest ho hi hd
  rw [step_word ho hi, acceptWord_of_ok hd]

/-- A word that is no command is taken and reported; nothing else changes (R120, R121). -/
theorem step_word_of_error {s : State} {w : CommandWord} {rest : List Input} {e : DecodeError}
    (ho : portOpen s = true) (hi : s.inputs = .word w :: rest) (hd : decode w = .error e) :
    step s = .next { s with inputs := rest, err := true, cause := .illegal } := by
  rw [step_word ho hi, acceptWord_of_error hd, raise]

/-- Settles O5: step 1 of the decoder rejects the word. -/
theorem unassignedOpcodeRaisesIllegalCommand : Obligations.UnassignedOpcodeRaisesIllegalCommand :=
  fun _ _ _ ho hi hop => step_word_of_error ho hi (decode_of_unassigned hop)

/-- Settles O6: the opcode leads to its format, whose reserved field holds the set bit. -/
theorem reservedBitRaisesIllegalCommand : Obligations.ReservedBitRaisesIllegalCommand := by
  intro s w rest k ho hi hk hb hf
  refine step_word_of_error (e := .reservedBitSet) ho hi ?_
  obtain ⟨hop, hlo⟩ | ⟨hop, hlo⟩ | ⟨hop, hlo⟩ | ⟨hop, hlo⟩ | ⟨hop, hlo⟩ := hf
  · exact (decode_eq_decodeSetPin hop).trans (checkReserved_of_set_bit _ hb hlo hk)
  · exact (decode_eq_decodeSetTiming hop).trans (checkReserved_of_set_bit _ hb hlo hk)
  · exact (decode_eq_decodeSendNew hop).trans (checkReserved_of_set_bit _ hb hlo hk)
  · exact (decode_eq_decodeSendOld hop).trans (checkReserved_of_set_bit _ hb hlo hk)
  · exact (decode_eq_decodeSendCogex hop).trans (checkReserved_of_set_bit _ hb hlo hk)

/-! ### The match and mask table -/

theorem field_and (v w : CommandWord) (lo len : Nat) : field (v &&& w) lo len = field v lo len &&& field w lo len := by
  apply BitVec.eq_of_getLsbD_eq
  intro k hk
  simp only [BitVec.getLsbD_and, getLsbD_field, hk, decide_true, Bool.true_and]

/-- A field that the mask holds whole is the pattern's. -/
theorem field_of_mask {w mask pattern : CommandWord} {lo len : Nat} (h : w &&& mask = pattern)
    (hm : field mask lo len = BitVec.allOnes len) : field w lo len = field pattern lo len := by
  rw [← h, field_and, hm, BitVec.and_allOnes]

/-- The word of every command belongs to the row of its mnemonic. -/
theorem encodeMatchesRow (i : Instr) : Laws.EncodeMatchesRow.Statement i := by
  cases i with
  | setPin => exact Laws.EncodeMatchesRow.setPin ..
  | setTiming => exact Laws.EncodeMatchesRow.setTiming ..
  | sendNew => exact Laws.EncodeMatchesRow.sendNew ..
  | sendOld => exact Laws.EncodeMatchesRow.sendOld ..
  | sendCogex => exact Laws.EncodeMatchesRow.sendCogex ..

/-- A word of no row is no command: a decoded one is the word of its command, which belongs to a row. -/
theorem decode_of_no_row {w : CommandWord} (h : ∀ r ∈ opcodeTable, r.covers w = false) : ∃ e, decode w = .error e := by
  cases hd : decode w with
  | error e => exact ⟨e, rfl⟩
  | ok i =>
    obtain ⟨r, hr, -, hc⟩ := encodeMatchesRow i
    rw [encode_of_decode hd, h r hr] at hc
    cases hc

/-- A word of two rows would give them one pattern under both masks. -/
theorem opcodeTable_disjoint (w : CommandWord) :
    opcodeTable.Pairwise fun a b => ¬(a.covers w = true ∧ b.covers w = true) := by
  refine opcodeTable_opcodes_differ.imp fun {a b} hne ⟨ha, hb⟩ => hne ?_
  rw [OpcodeRow.covers, beq_iff_eq] at ha hb
  rw [← ha, ← hb, BitVec.and_assoc, BitVec.and_assoc, BitVec.and_comm a.mask]

/-- Settles O3: the mask of a row holds the opcode and the reserved field of its format, which therefore are the
pattern's; a word of no row is not decoded. -/
theorem acceptedWordFollowsTheMatchAndMaskTable : Obligations.AcceptedWordFollowsTheMatchAndMaskTable := by
  intro s w
  refine ⟨fun h => acceptWord_of_ok ?_ s, fun h => acceptWord_of_ok ?_ s, fun h => acceptWord_of_ok ?_ s,
    fun h => acceptWord_of_ok ?_ s, fun h => acceptWord_of_ok ?_ s, fun h => ?_, opcodeTable_disjoint w⟩
  · exact (decode_eq_decodeSetPin (field_of_mask h rfl)).trans (checkReserved_eq_ok.2 ⟨field_of_mask h rfl, rfl⟩)
  · exact (decode_eq_decodeSetTiming (field_of_mask h rfl)).trans (checkReserved_eq_ok.2 ⟨field_of_mask h rfl, rfl⟩)
  · exact (decode_eq_decodeSendNew (field_of_mask h rfl)).trans (checkReserved_eq_ok.2 ⟨field_of_mask h rfl, rfl⟩)
  · exact (decode_eq_decodeSendOld (field_of_mask h rfl)).trans (checkReserved_eq_ok.2 ⟨field_of_mask h rfl, rfl⟩)
  · exact (decode_eq_decodeSendCogex (field_of_mask h rfl)).trans (checkReserved_eq_ok.2 ⟨field_of_mask h rfl, rfl⟩)
  · obtain ⟨e, he⟩ := decode_of_no_row h
    rw [acceptWord_of_error he, raise]
end Sys2Proof

/-! # The Frames

A Frame is the low half of a word of placed values, so its fields are read by the rules of the encoding. -/

namespace Sys2Proof.Machine

/-! ### The layout of a Frame -/

/-- The Frame in the low half of a word: a Frame's layout is then written, and read, as a command word's is. -/
def frameOf (w : CommandWord) : Frame := w.setWidth 32

theorem frameOf_or (v w : CommandWord) : frameOf (v ||| w) = frameOf v ||| frameOf w := BitVec.setWidth_or

/-- A field of a Frame. -/
theorem extractLsb'_frameOf (w : CommandWord) {lo len : Nat} (h : lo + len ≤ 32) :
    (frameOf w).extractLsb' lo len = field w lo len := by
  apply BitVec.eq_of_getLsbD_eq
  intro k hk
  rw [frameOf, getLsbD_field, BitVec.getLsbD_extractLsb', BitVec.getLsbD_setWidth]
  simp [show lo + k < 32 by omega]

/-- A bit of a Frame. -/
theorem getLsbD_frameOf (w : CommandWord) {k : Nat} (h : k < 32) :
    (frameOf w).getLsbD k = (field w k 1).getLsbD 0 := by
  rw [frameOf, BitVec.getLsbD_setWidth, getLsbD_eq_field, decide_eq_true h, Bool.true_and]

/-- A placed value in a Frame. -/
theorem frameOf_place {n : Nat} (v : BitVec n) (lo : Nat) : frameOf (place v lo) = v.setWidth 32 <<< lo := by
  apply BitVec.eq_of_getLsbD_eq
  intro k hk
  rw [frameOf, BitVec.getLsbD_setWidth, getLsbD_place, BitVec.getLsbD_shiftLeft, BitVec.getLsbD_setWidth]
  by_cases h : lo ≤ k
  · simp [hk, h, Nat.not_lt.2 h, show k < 64 by omega, show k - lo < 32 by omega]
  · simp [h, Nat.not_le.1 h]

/-- A value below `2 ^ len` fits a field of `len` bits. -/
theorem frameOf_place_setWidth {n len : Nat} {v : BitVec n} (h : v.toNat < 2 ^ len) (lo : Nat) :
    frameOf (place (v.setWidth len) lo) = v.setWidth 32 <<< lo := by
  rw [frameOf_place]
  congr 1
  apply BitVec.eq_of_toNat_eq
  simp only [BitVec.toNat_setWidth, Nat.mod_eq_of_lt h]

/-- The fixed bits of a 12-bit Frame (R107, R110). -/
theorem frameOf_place_fixed {n lo : Nat} (v : BitVec n) (h : lo + n ≤ 12) :
    frameOf (place v lo) = (v.setWidth 12 <<< lo).setWidth 32 := by
  apply BitVec.eq_of_getLsbD_eq
  intro k hk
  rw [frameOf_place]
  simp only [BitVec.getLsbD_setWidth, BitVec.getLsbD_shiftLeft]
  rcases Nat.lt_or_ge k 12 with h12 | h12
  · simp [hk, h12, show k - lo < 32 by omega, show k - lo < 12 by omega]
  · simp [Nat.not_lt.2 h12, BitVec.getLsbD_of_ge v (k - lo) (by omega)]

theorem toNat_sub_one {v : Byte} (h : 1 ≤ v.toNat) : (v - 1).toNat = v.toNat - 1 :=
  BitVec.toNat_sub_of_le (show 1#8 ≤ v from h)

theorem toNat_sub_charA {v : Byte} (h : 65 ≤ v.toNat) : (v - Config.charA).toNat = v.toNat - 65 :=
  BitVec.toNat_sub_of_le (show Config.charA ≤ v from h)

/-! ### The NEW Frame -/

/-- The low four bits of the NEW unit field (R101). -/
def newUnitCode (unit : Byte) (group : Bool) : BitVec 4 :=
  if group ∨ unit = 0 then 0 else (unit - 1).setWidth 4

theorem newUnitCode_group (unit : Byte) : newUnitCode unit true = 0 := if_pos (.inl rfl)

/-- The NEW unit field (R101, R102): bit 5 is the group flag, bit 4 is clear. -/
theorem newUnitField_eq {unit : Byte} {group : Bool} (h : group = true ∨ unit.toNat ≤ 15) :
    (newUnitField unit group).setWidth 32 =
      frameOf (place (BitVec.ofBool group) 5) ||| frameOf (place (newUnitCode unit group) 0) := by
  cases group with
  | true =>
    rw [newUnitCode_group]
    rfl
  | false =>
    by_cases hu : unit = 0
    · subst hu
      rfl
    · have hunit : unit.toNat ≤ 15 := by simpa using h
      have hpos : 1 ≤ unit.toNat := Nat.pos_of_ne_zero fun h0 => hu (BitVec.eq_of_toNat_eq h0)
      have hlt := toNat_sub_one hpos
      have hfield : newUnitField unit false = (unit - 1).setWidth 6 := if_neg hu
      have hcode : newUnitCode unit false = (unit - 1).setWidth 4 := if_neg (by simpa using hu)
      rw [hfield, hcode, frameOf_place_setWidth (by omega), ← frameOf_place_setWidth (len := 6) (by omega),
        frameOf_place]
      simp [frameOf_place]

/-- The NEW Frame of a legal unit, field by field (R100). -/
theorem newFrame_eq (addr : BitVec 32) {unit : Byte} (on : Bool) {group : Bool} (h : group = true ∨ unit.toNat ≤ 15) :
    newFrame addr unit on group = frameOf (place (addr.setWidth 26) 6 |||
      (place (BitVec.ofBool group) 5 ||| place (newUnitCode unit group) 0) ||| place (BitVec.ofBool on) 4) := by
  have haddr : frameOf (place (addr.setWidth 26) 6) = addr <<< 6 := by
    apply BitVec.eq_of_getLsbD_eq
    intro k hk
    simp only [frameOf_place, BitVec.getLsbD_shiftLeft, BitVec.getLsbD_setWidth]
    simp [show k - 6 < 26 by omega, show k - 6 < 32 by omega]
  have hon : frameOf (place (BitVec.ofBool on) 4) = if on then 0x10#32 else 0#32 := by cases on <;> rfl
  simp only [newFrame, newUnitField_eq h, frameOf_or, haddr, hon]

section New

variable (addr : BitVec 32) {unit : Byte} (on : Bool) {group : Bool} (h : group = true ∨ unit.toNat ≤ 15)
include h

theorem newFrame_addr : (newFrame addr unit on group).extractLsb' 6 26 = addr.setWidth 26 := by
  simp [newFrame_eq addr on h, extractLsb'_frameOf, field_or, field_place_same, field_place_above]

theorem newFrame_group : (newFrame addr unit on group).getLsbD 5 = group := by
  simp [newFrame_eq addr on h, getLsbD_frameOf, field_or, field_place_same, field_place_below, field_place_above,
    -BitVec.getLsbD_eq_getElem]

theorem newFrame_on : (newFrame addr unit on group).getLsbD 4 = on := by
  simp [newFrame_eq addr on h, getLsbD_frameOf, field_or, field_place_same, field_place_below, field_place_above,
    -BitVec.getLsbD_eq_getElem]

theorem newFrame_code : (newFrame addr unit on group).extractLsb' 0 4 = newUnitCode unit group := by
  simp [newFrame_eq addr on h, extractLsb'_frameOf, field_or, field_place_same, field_place_below]

end New

/-! ### The OLD and COGEX Frames -/

section Old

variable (P : Config.Platform) {house unit : Byte} (on : Bool) (hu : (unit - 1).toNat < 2 ^ 4)
  (hh : (house - Config.charA).toNat < 2 ^ 4)
include hu hh

/-- The OLD Frame of a legal letter and unit, field by field (R106). -/
theorem oldFrame_eq : oldFrame P house unit on = frameOf (place P.oldFixedBits 8 ||| place ((unit - 1).setWidth 4) 4 |||
    place ((house - Config.charA).setWidth 4) 0 ||| place (BitVec.ofBool on) 11) := by
  have hfixed := frameOf_place_fixed P.oldFixedBits (show 8 + 3 ≤ 12 by decide)
  have hon : frameOf (place (BitVec.ofBool on) 11) = if on then 0x800#32 else 0#32 := by cases on <;> rfl
  simp only [frameOf_or, hfixed, frameOf_place_setWidth hu, frameOf_place_setWidth hh, BitVec.shiftLeft_zero, hon,
    oldFrame, Config.Platform.oldFixed]

theorem oldFrame_zeros : (oldFrame P house unit on).extractLsb' 12 20 = 0 := by
  simp [oldFrame_eq P on hu hh, extractLsb'_frameOf, field_or, field_place_above]

theorem oldFrame_on : (oldFrame P house unit on).getLsbD 11 = on := by
  simp [oldFrame_eq P on hu hh, getLsbD_frameOf, field_or, field_place_same, field_place_above,
    -BitVec.getLsbD_eq_getElem]

theorem oldFrame_fixed : (oldFrame P house unit on).extractLsb' 8 3 = P.oldFixedBits := by
  simp [oldFrame_eq P on hu hh, extractLsb'_frameOf, field_or, field_place_same, field_place_below, field_place_above]

theorem oldFrame_unit : (oldFrame P house unit on).extractLsb' 4 4 = (unit - 1).setWidth 4 := by
  simp [oldFrame_eq P on hu hh, extractLsb'_frameOf, field_or, field_place_same, field_place_below, field_place_above]

theorem oldFrame_house : (oldFrame P house unit on).extractLsb' 0 4 = (house - Config.charA).setWidth 4 := by
  simp [oldFrame_eq P on hu hh, extractLsb'_frameOf, field_or, field_place_same, field_place_below]

end Old

section Cogex

variable (P : Config.Platform) {house unit : Byte} (on : Bool) (hu : unit.toNat < 2 ^ 4) (hh : house.toNat < 2 ^ 4)
include hu hh

/-- The COGEX Frame of a legal house and unit, field by field (R109). -/
theorem cogexFrame_eq : cogexFrame P house unit on = frameOf (place P.cogexFixedBits 9 ||| place (unit.setWidth 4) 5 |||
    place (house.setWidth 4) 1 ||| (place (BitVec.ofBool on) 11 ||| place (BitVec.ofBool on) 0)) := by
  have hfixed := frameOf_place_fixed P.cogexFixedBits (show 9 + 2 ≤ 12 by decide)
  have hon : frameOf (place (BitVec.ofBool on) 11) ||| frameOf (place (BitVec.ofBool on) 0) =
      if on then 0x801#32 else 0#32 := by cases on <;> rfl
  simp only [frameOf_or, hfixed, frameOf_place_setWidth hu, frameOf_place_setWidth hh, hon, cogexFrame,
    Config.Platform.cogexFixed]

theorem cogexFrame_zeros : (cogexFrame P house unit on).extractLsb' 12 20 = 0 := by
  simp [cogexFrame_eq P on hu hh, extractLsb'_frameOf, field_or, field_place_above]

theorem cogexFrame_on_high : (cogexFrame P house unit on).getLsbD 11 = on := by
  simp [cogexFrame_eq P on hu hh, getLsbD_frameOf, field_or, field_place_same, field_place_above,
    -BitVec.getLsbD_eq_getElem]

theorem cogexFrame_fixed : (cogexFrame P house unit on).extractLsb' 9 2 = P.cogexFixedBits := by
  simp [cogexFrame_eq P on hu hh, extractLsb'_frameOf, field_or, field_place_same, field_place_below,
    field_place_above]

theorem cogexFrame_unit : (cogexFrame P house unit on).extractLsb' 5 4 = unit.setWidth 4 := by
  simp [cogexFrame_eq P on hu hh, extractLsb'_frameOf, field_or, field_place_same, field_place_below,
    field_place_above]

theorem cogexFrame_house : (cogexFrame P house unit on).extractLsb' 1 4 = house.setWidth 4 := by
  simp [cogexFrame_eq P on hu hh, extractLsb'_frameOf, field_or, field_place_same, field_place_below,
    field_place_above]

theorem cogexFrame_on_low : (cogexFrame P house unit on).getLsbD 0 = on := by
  simp [cogexFrame_eq P on hu hh, getLsbD_frameOf, field_or, field_place_same, field_place_below,
    -BitVec.getLsbD_eq_getElem]

end Cogex

end Sys2Proof.Machine

namespace Sys2Proof

open Machine

/-- Settles O23: the fields of the NEW Frame; the unit code of a group command is zero. -/
theorem groupSentinelIsFrameBitFive : Obligations.GroupSentinelIsFrameBitFive := by
  intro addr unit on group h
  refine ⟨newFrame_group addr on h, newFrame_on addr on h, fun hg => ?_⟩
  rw [newFrame_code addr on h, hg, newUnitCode_group]

/-! ### The acceptance of a send -/

/-- A send that passes validation on a pad that exists begins (R237 row 1). -/
theorem beginSend_accepted {p : Proto} {fields : Option Cause} (frame : Frame) (dim : DimLevel) {s : State}
    (hp : s.pin.toNat < s.platform.nPins) (hf : fields = none) (hT : 150 < s.period.toNat) :
    beginSend p fields frame dim s = .next (acceptSend p frame dim s) := by
  rw [beginSend, if_pos ((pinValid_iff s).2 hp), sendFault_eq_none.2 ⟨hf, hT⟩]

/-- Settles O20: the validation passes and the Frame is `newFrame`, read field by field. -/
theorem sendNewIsAcceptedWithItsFrame : Obligations.SendNewIsAcceptedWithItsFrame := by
  intro s addr unit on group dim hp hi hT
  have ⟨_, hunit, _⟩ := hi
  have hu : group = true ∨ unit.toNat ≤ 15 := by
    cases group with
    | true => exact .inl rfl
    | false => exact .inr (hunit rfl)
  exact ⟨newFrame addr unit on group, beginSend_accepted _ _ hp (newFieldFault_eq_none hi) hT,
    newFrame_addr addr on hu, newFrame_group addr on hu, newFrame_on addr on hu, newFrame_code addr on hu⟩

/-- Settles O21: the validation passes; a legal unit and letter fit their four bits of the Frame. -/
theorem sendOldIsAcceptedWithItsFrame : Obligations.SendOldIsAcceptedWithItsFrame := by
  intro s house unit on hp hi hT
  have ⟨⟨hh1, hh2⟩, hu1, hu2⟩ := hi
  have hunit := toNat_sub_one hu1
  have hhouse := toNat_sub_charA hh1
  have hu : (unit - 1).toNat < 2 ^ 4 := by omega
  have hh : (house - Config.charA).toNat < 2 ^ 4 := by omega
  refine ⟨oldFrame s.platform house unit on, beginSend_accepted _ _ hp (oldFieldFault_eq_none hi) hT,
    oldFrame_zeros _ on hu hh, oldFrame_on _ on hu hh, oldFrame_fixed _ on hu hh, ?_, ?_⟩
  · rw [oldFrame_unit _ on hu hh, BitVec.toNat_setWidth, Nat.mod_eq_of_lt hu, hunit]
  · rw [oldFrame_house _ on hu hh, BitVec.toNat_setWidth, Nat.mod_eq_of_lt hh, hhouse]

/-- Settles O22: the validation passes; a legal unit and house fit their four bits of the Frame. -/
theorem sendCogexIsAcceptedWithItsFrame : Obligations.SendCogexIsAcceptedWithItsFrame := by
  intro s house unit on hp hi hT
  have ⟨⟨_, hh⟩, _, hu⟩ := hi
  replace hh : house.toNat < 2 ^ 4 := by omega
  replace hu : unit.toNat < 2 ^ 4 := by omega
  refine ⟨cogexFrame s.platform house unit on, beginSend_accepted _ _ hp (cogexFieldFault_eq_none hi) hT,
    cogexFrame_zeros _ on hu hh, cogexFrame_on_high _ on hu hh, cogexFrame_fixed _ on hu hh, ?_, ?_,
    cogexFrame_on_low _ on hu hh⟩
  · rw [cogexFrame_unit _ on hu hh, BitVec.toNat_setWidth, Nat.mod_eq_of_lt hu]
  · rw [cogexFrame_house _ on hu hh, BitVec.toNat_setWidth, Nat.mod_eq_of_lt hh]

end Sys2Proof

/-! # The datagrams

A NEW datagram is its payload between two markers; the payload is read part by part. -/

namespace Sys2Proof

open Machine

theorem msbFirst_length {w : Nat} (v : BitVec w) (lo n : Nat) : (msbFirst v lo n).length = n := by
  simp [msbFirst]

/-- The `k`-th symbol of a field is the `k`-th bit from its top. -/
theorem msbFirst_getElem? {w : Nat} (v : BitVec w) (lo : Nat) {n k : Nat} (h : k < n) :
    (msbFirst v lo n)[k]? = some (.bit (v.getLsbD (lo + (n - 1 - k)))) := by
  simp [msbFirst, h]

/-- Between the markers a NEW datagram is its payload. -/
theorem newDatagram_getElem?_succ {frame : Frame} {dim : DimLevel} {k : Nat} (h : k < (newPayload frame dim).length) :
    (newDatagram frame dim)[k + 1]? = (newPayload frame dim)[k]? := by
  rw [newDatagram_eq, List.cons_append, List.getElem?_cons_succ, List.getElem?_append_left h]

theorem newDatagram_length (frame : Frame) (dim : DimLevel) :
    (newDatagram frame dim).length = (newPayload frame dim).length + 2 := by
  simp [newDatagram_eq]

theorem newDatagram_head? (frame : Frame) (dim : DimLevel) : (newDatagram frame dim).head? = some .start := by
  rw [newDatagram_eq]
  rfl

theorem newDatagram_getLast? (frame : Frame) (dim : DimLevel) : (newDatagram frame dim).getLast? = some .stop := by
  rw [newDatagram_eq, List.getLast?_concat]

section OnOff

variable {frame : Frame} {dim : DimLevel} (hd : dim = 0)
include hd

theorem newPayload_length_onOff : (newPayload frame dim).length = 32 := by
  rw [newPayload, if_pos hd, msbFirst_length]

/-- Without a dim level the whole Frame is sent, `FRAME[31]` first (R105). -/
theorem newPayload_onOff {k : Nat} (hk : k < 32) :
    (newPayload frame dim)[k]? = some (.bit (frame.getLsbD (31 - k))) := by
  rw [newPayload, if_pos hd, msbFirst_getElem? _ _ hk, Nat.zero_add]

end OnOff

section Dim

variable {frame : Frame} {dim : DimLevel} (hd : dim ≠ 0)
include hd

theorem newPayload_length_dim : (newPayload frame dim).length = 36 := by
  rw [newPayload, if_neg hd]
  simp [msbFirst_length]

/-- The Frame down to `FRAME[5]`, -/
theorem newPayload_high {k : Nat} (hk : k < 27) :
    (newPayload frame dim)[k]? = some (.bit (frame.getLsbD (31 - k))) := by
  rw [newPayload, if_neg hd, List.getElem?_append_left (by simpa [msbFirst_length] using hk), msbFirst_getElem? _ _ hk,
    show 5 + (27 - 1 - k) = 31 - k by omega]

/-- then what follows `FRAME[5]` in a dim command (R105): -/
theorem newPayload_low (k : Nat) :
    (newPayload frame dim)[k + 27]? = (NewSymbol.dimmer :: (msbFirst frame 0 4 ++ msbFirst dim 0 4))[k]? := by
  rw [newPayload, if_neg hd, List.getElem?_append_right (by simp [msbFirst_length]), msbFirst_length,
    Nat.add_sub_cancel]
  rfl

/-- the dimmer symbol in place of `FRAME[4]`, the unit code, -/
theorem newPayload_unitCode {k : Nat} (hk : k < 4) :
    (newPayload frame dim)[k + 28]? = some (.bit (frame.getLsbD (3 - k))) := by
  rw [newPayload_low hd (k + 1), List.getElem?_cons_succ,
    List.getElem?_append_left (by simpa [msbFirst_length] using hk), msbFirst_getElem? _ _ hk, Nat.zero_add]

/-- and the dim level. -/
theorem newPayload_dimLevel {k : Nat} (hk : k < 4) :
    (newPayload frame dim)[k + 32]? = some (.bit (dim.getLsbD (3 - k))) := by
  rw [newPayload_low hd (k + 5), List.getElem?_cons_succ, List.getElem?_append_right (by simp [msbFirst_length]),
    msbFirst_length, Nat.add_sub_cancel, msbFirst_getElem? _ _ hk, Nat.zero_add]

end Dim

/-- The `k`-th symbol after the start of an OLD or COGEX datagram is `FRAME[k]` (R117). -/
theorem shortDatagram_getElem?_succ (frame : Frame) {k : Nat} (hk : k < 12) :
    (shortDatagram frame)[k + 1]? = some (.bit (frame.getLsbD k)) := by
  simp [shortDatagram, hk]

/-- Settles O56: the parts of the payload, one after the other, between the markers. -/
theorem datagramsSendTheBitsInProtocolOrder : Obligations.DatagramsSendTheBitsInProtocolOrder := by
  intro frame dim
  refine ⟨fun hd => ?_, fun hd => ?_, newDatagram_head? frame dim, newDatagram_getLast? frame dim,
    by simp [shortDatagram], rfl, fun k hk => shortDatagram_getElem?_succ frame hk⟩
  · have hlen := newPayload_length_onOff (frame := frame) hd
    refine ⟨by rw [newDatagram_length, hlen], fun k hk => ?_⟩
    rw [newDatagram_getElem?_succ (by omega), newPayload_onOff hd hk]
  · have hlen := newPayload_length_dim (frame := frame) hd
    refine ⟨by rw [newDatagram_length, hlen], fun k hk => ?_, ?_, fun k hk => ?_, fun k hk => ?_⟩
    · rw [newDatagram_getElem?_succ (by omega), newPayload_high hd hk]
    · rw [newDatagram_getElem?_succ (by omega)]
      exact newPayload_low hd 0
    · rw [newDatagram_getElem?_succ (by omega), newPayload_unitCode hd hk]
    · rw [newDatagram_getElem?_succ (by omega), newPayload_dimLevel hd hk]

/-! ### The durations of the bits -/

theorem newDurations_bit_sum (T : Nat) (b : Bool) :
    (newDurations T (.bit b)).1 + (newDurations T (.bit b)).2 = 6 * T := by
  cases b <;> (simp only [newDurations]; omega)

theorem newDurations_bit_ne_zero {T : Nat} (hT : 0 < T) (b : Bool) : (newDurations T (.bit b)).1 ≠ 0 := by
  cases b <;> (simp only [newDurations]; omega)

theorem oldDurations_bit_sum (T : Nat) (b : Bool) :
    (oldDurations T (.bit b)).1 + (oldDurations T (.bit b)).2 = 4 * T := by
  cases b <;> (simp only [oldDurations]; omega)

theorem oldDurations_bit_ne_zero {T : Nat} (hT : 0 < T) (b : Bool) : (oldDurations T (.bit b)).1 ≠ 0 := by
  cases b <;> (simp only [oldDurations]; omega)

/-- Settles O29: bit by bit; the COGEX alphabet is the OLD one (R115). -/
theorem bitSymbolsHaveFixedTotals : Obligations.BitSymbolsHaveFixedTotals := by
  intro T b hT
  have hpos : 0 < T := by omega
  have hdimmer : newDurations T .dimmer = (T, T) := by simp [newDurations]
  have hcogex : cogexDurations T (.bit b) = oldDurations T (.bit b) := by cases b <;> rfl
  rw [hcogex]
  exact ⟨newDurations_bit_sum T b, oldDurations_bit_sum T b, oldDurations_bit_sum T b, rfl, rfl, hdimmer, rfl, rfl,
    newDurations_bit_ne_zero hpos b, oldDurations_bit_ne_zero hpos b, oldDurations_bit_ne_zero hpos b⟩

end Sys2Proof

/-! # The pulses of a call and of a whole send

A call of the Pulse Primitive appends `pulseEvents`; a whole send appends calls between silent events. What a call's
events write and ask for is said once, and lifted to the send event by event. -/

namespace Sys2Proof

open Machine

/-! ### The events of one call -/

/-- The eight events of the contract, or its last four for a marker (R130, R132). -/
theorem pulseEvents_eq (p T d1 d2 : Nat) : pulseEvents p T (d1, d2) =
    (if d1 ≠ 0 then [.pinWrite p .high, .delayUs (T - 150), .pinWrite p .low, .delayUs (d1 + 150)] else []) ++
      [.pinWrite p .high, .delayUs (T - 150), .pinWrite p .low, .delayUs (d2 + 150)] := by
  by_cases h : d1 = 0 <;> simp [pulseEvents, phaseEvents, Config.correctionUs, h]

@[simp] theorem Machine.State.pulsed_trace (d : Nat × Nat) (s : State) :
    (s.pulsed d).trace = s.trace ++ pulseEvents s.pin.toNat s.period.toNat d := rfl

/-- A call changes only the pads and the trace (R135). -/
theorem Machine.State.pulsed_eq (d : Nat × Nat) (s : State) :
    s.pulsed d = { s with
      pads := (s.pulsed d).pads, trace := s.trace ++ pulseEvents s.pin.toNat s.period.toNat d } := rfl

/-- Settles O26: the three variants are one operation, which leaves exactly its own effect. -/
theorem pulsePrimitivePerformsItsContract : Obligations.PulsePrimitivePerformsItsContract := by
  intro s d1 d2 hpin hT
  have h : pulse d1 d2 s = .next (s.pulsed (d1, d2)) := pulse_eq d1 d2 ((pinValid_iff s).2 hpin) hT
  refine ⟨s.pulsed (d1, d2), h, h, h, ?_⟩
  rw [List.append_assoc, ← pulseEvents_eq]
  exact s.pulsed_eq (d1, d2)

/-- The correction a HIGH hold is shortened by is what the LOW hold after it is lengthened by (R131). -/
theorem requestedUs_phaseEvents (p d : Nat) {T : Nat} (hT : Config.correctionUs < T) :
    requestedUs (phaseEvents p T d) = T + d := by
  simp only [phaseEvents, requestedUs_cons, requestedUs_nil, nominalUs_pinWrite, nominalUs_delayUs]
  omega

theorem requestedUs_pulseEvents (p d1 d2 : Nat) {T : Nat} (hT : Config.correctionUs < T) :
    requestedUs (pulseEvents p T (d1, d2)) = if d1 ≠ 0 then 2 * T + d1 + d2 else T + d2 := by
  by_cases hd : d1 = 0
  · simp [pulseEvents, hd, requestedUs_phaseEvents p d2 hT]
  · simp only [pulseEvents, hd, if_false, not_false_eq_true, ne_eq, if_true, requestedUs_append,
      requestedUs_phaseEvents p _ hT]
    omega

/-- Settles O28: the requested time of a trace is additive, and that of a call's events is the sum of its holds. -/
theorem pulseRequestedTimeIsTheSumOfItsHolds : Obligations.PulseRequestedTimeIsTheSumOfItsHolds := by
  intro s t d1 d2 h
  obtain ⟨hT, -, rfl⟩ := pulse_next (pulse_of_variant h)
  rw [State.pulsed_trace, requestedUs_append, requestedUs_pulseEvents _ d1 d2 hT]

theorem pinLevels_pulseEvents (p T : Nat) (d : Nat × Nat) :
    pinLevels (pulseEvents p T d) = if d.1 ≠ 0 then [.high, .low, .high, .low] else [.high, .low] := by
  by_cases hd : d.1 = 0 <;> simp [pulseEvents, phaseEvents, pinLevels, hd]

/-! ### The events of a whole send -/

/-- The events of calls in a row, given by their durations. -/
def pulseTrain (p T : Nat) (ds : List (Nat × Nat)) : List Event := ds.flatMap (pulseEvents p T)

/-- No hold of a datagram is longer than ten periods: the NEW markers are the longest (R113 to R115). -/
theorem newDurations_le (T : Nat) (y : NewSymbol) : (newDurations T y).1 ≤ 10 * T ∧ (newDurations T y).2 ≤ 10 * T := by
  cases y with
  | start | dimmer | stop => simp only [newDurations]; omega
  | bit b => cases b <;> (simp only [newDurations]; omega)

theorem oldDurations_le (T : Nat) (y : ShortSymbol) :
    (oldDurations T y).1 ≤ 10 * T ∧ (oldDurations T y).2 ≤ 10 * T := by
  cases y with
  | start => simp only [oldDurations]; omega
  | bit b => cases b <;> (simp only [oldDurations]; omega)

/-- Every datagram is calls in a row with bounded durations. -/
theorem datagramEvents_eq_pulseTrain (proto : Proto) (p T : Nat) (frame : Frame) (dim : DimLevel) :
    ∃ ds : List (Nat × Nat), (∀ d ∈ ds, d.1 ≤ 10 * T ∧ d.2 ≤ 10 * T) ∧
      datagramEvents proto p T frame dim = pulseTrain p T ds := by
  cases proto with
  | new =>
    exact ⟨(newDatagram frame dim).map (newDurations T), List.forall_mem_map.2 fun y _ => newDurations_le T y,
      (List.flatMap_map ..).symm⟩
  | old | cogex =>
    exact ⟨(shortDatagram frame).map (oldDurations T), List.forall_mem_map.2 fun y _ => oldDurations_le T y,
      (List.flatMap_map ..).symm⟩

/-- A send in one piece is a whole send of a datagram of its protocol. -/
theorem bigStep_eq_wholeSend {i : Instr} (s : State) (hs : isSend i = true) :
    ∃ fields proto frame dim,
      bigStep i s = wholeSend fields (datagramEvents proto s.pin.toNat s.period.toNat frame dim) s := by
  cases i with
  | setPin | setTiming => cases hs
  | sendNew addr unit on group dim => exact ⟨_, .new, newFrame addr unit on group, newDim on dim, rfl⟩
  | sendOld house unit on => exact ⟨_, .old, oldFrame s.platform house unit on, 0, rfl⟩
  | sendCogex house unit on => exact ⟨_, .cogex, cogexFrame s.platform house unit on, 0, rfl⟩

/-- Everything a whole send can add to the trace: nothing, after a fault, or its events. -/
theorem wholeSend_trace {fields : Option Cause} {dg : List Event} {s t : State} (h : wholeSend fields dg s = .next t) :
    t.trace = s.trace ∨ Config.correctionUs < s.period.toNat ∧ t.trace = s.trace ++ sendEvents s dg := by
  unfold wholeSend at h
  split at h
  · obtain rfl := Host.Outcome.next.inj h
    cases hf : sendFault fields s with
    | some c => exact .inl rfl
    | none => exact .inr ⟨(sendFault_eq_none.1 hf).2, rfl⟩
  · cases h

/-- Everything a send in one piece can add to the trace. -/
theorem bigStep_send_events {s t : State} {i : Instr} {es : List Event} (hs : isSend i = true)
    (h : bigStep i s = .next t) (he : t.trace = s.trace ++ es) :
    es = [] ∨ Config.correctionUs < s.period.toNat ∧ ∃ ds : List (Nat × Nat),
      (∀ d ∈ ds, d.1 ≤ 10 * s.period.toNat ∧ d.2 ≤ 10 * s.period.toNat) ∧
      es = sendEvents s (pulseTrain s.pin.toNat s.period.toNat ds) := by
  obtain ⟨fields, proto, frame, dim, e⟩ := bigStep_eq_wholeSend s hs
  obtain ht | ⟨hT, ht⟩ := wholeSend_trace (e ▸ h)
  · exact .inl (List.append_right_eq_self.1 (he.symm.trans ht))
  · obtain ⟨ds, hds, hdg⟩ := datagramEvents_eq_pulseTrain proto s.pin.toNat s.period.toNat frame dim
    exact .inr ⟨hT, ds, hds, hdg ▸ List.append_cancel_left (he.symm.trans ht)⟩

/-! ### The levels a send writes -/

theorem pinLevels_flatten (ess : List (List Event)) : pinLevels ess.flatten = (ess.map pinLevels).flatten := by
  induction ess with
  | nil => rfl
  | cons es ess ih => simp [pinLevels_append, ih]

/-- The guard and the inter-repeat delay write no level. -/
theorem pinLevels_sendEvents (s : State) (dg : List Event) :
    pinLevels (sendEvents s dg) = (List.replicate s.repeats.toNat (pinLevels dg)).flatten := by
  simp [sendEvents, bodyEvents, guardEnterEvents, guardExitEvents, pinLevels_append, pinLevels_flatten, pinLevels]

/-- The levels alternate strictly, from HIGH to LOW if there are any (R133). -/
def HighToLow (ls : List Level) : Prop :=
  ls.IsChain (· ≠ ·) ∧ ls.head?.getD .high = .high ∧ ls.getLast?.getD .low = .low

theorem HighToLow.nil : HighToLow [] := ⟨.nil, rfl, rfl⟩

/-- Where two such lists meet, LOW is followed by HIGH. -/
theorem HighToLow.append {a b : List Level} (ha : HighToLow a) (hb : HighToLow b) : HighToLow (a ++ b) := by
  obtain ⟨hca, hha, hla⟩ := ha
  obtain ⟨hcb, hhb, hlb⟩ := hb
  refine ⟨hca.append hcb fun x hx y hy => ?_, ?_, ?_⟩
  · rw [hx] at hla
    rw [hy] at hhb
    rw [show x = .low from hla, show y = .high from hhb]
    decide
  · cases a with
    | nil => exact hhb
    | cons x a => exact hha
  · rw [List.getLast?_append]
    cases hl : b.getLast? with
    | none => exact hla
    | some y => simpa [hl] using hlb

theorem HighToLow.flatten {ls : List (List Level)} (h : ∀ l ∈ ls, HighToLow l) : HighToLow ls.flatten := by
  induction ls with
  | nil => exact .nil
  | cons l ls ih =>
    obtain ⟨hl, hls⟩ := List.forall_mem_cons.1 h
    exact hl.append (ih hls)

theorem highToLow_pulseEvents (p T : Nat) (d : Nat × Nat) : HighToLow (pinLevels (pulseEvents p T d)) := by
  rw [pinLevels_pulseEvents]
  split <;> simp [HighToLow]

theorem highToLow_pulseTrain (p T : Nat) (ds : List (Nat × Nat)) : HighToLow (pinLevels (pulseTrain p T ds)) := by
  rw [pulseTrain, List.flatMap_def, pinLevels_flatten, List.map_map]
  exact .flatten (List.forall_mem_map.2 fun d _ => highToLow_pulseEvents p T d)

/-- Settles O53: a send writes the levels of its calls, each from HIGH to LOW. -/
theorem pinLevelsAlternateOverAWholeSend : Obligations.PinLevelsAlternateOverAWholeSend := by
  refine ⟨fun s t d1 d2 h => ?_, fun s t i es hs h he => ?_⟩
  · obtain ⟨-, -, rfl⟩ := pulse_next (pulse_of_variant h)
    exact ⟨_, s.pulsed_trace _, pinLevels_pulseEvents _ _ _⟩
  · obtain rfl | ⟨-, ds, -, rfl⟩ := bigStep_send_events hs h he
    · exact HighToLow.nil
    · rw [pinLevels_sendEvents]
      refine HighToLow.flatten fun l hl => ?_
      rw [List.eq_of_mem_replicate hl]
      exact highToLow_pulseTrain _ _ ds

/-! ### The delays a command asks for -/

/-- The bounds of R286 and R287 on the argument of a delay. -/
def delayInRange : Event → Prop
  | .delayUs n => 1 ≤ n ∧ n ≤ 655500
  | .delayMs n => n ≤ 255
  | .regRead _ _ | .regWrite _ _ | .pinMode _ | .pinWrite _ _ => True

/-- The longest `DelayUs` is the LOW hold of a NEW marker at the largest period, `10 * 65535 + 150` (R131). -/
theorem delayInRange_phaseEvents (p : Nat) {T d : Nat} (hT : Config.correctionUs < T) (hw : T < 2 ^ 16)
    (hd : d ≤ 10 * T) : ∀ e ∈ phaseEvents p T d, delayInRange e := by
  simp only [phaseEvents, Config.correctionUs, List.forall_mem_cons, delayInRange] at hT ⊢
  refine ⟨trivial, by omega, trivial, by omega, nofun⟩

theorem delayInRange_pulseTrain (p : Nat) {T : Nat} {ds : List (Nat × Nat)} (hT : Config.correctionUs < T)
    (hw : T < 2 ^ 16) (hds : ∀ d ∈ ds, d.1 ≤ 10 * T ∧ d.2 ≤ 10 * T) : ∀ e ∈ pulseTrain p T ds, delayInRange e := by
  refine List.forall_mem_flatMap.2 fun d hd => List.forall_mem_append.2 ⟨?_, ?_⟩
  · split
    · exact nofun
    · exact delayInRange_phaseEvents p hT hw (hds d hd).1
  · exact delayInRange_phaseEvents p hT hw (hds d hd).2

/-- Beside its datagrams a send asks for `DelayMs(RDELAY)` only, and `RDELAY` has eight bits. -/
theorem delayInRange_sendEvents (s : State) {dg : List Event} (h : ∀ e ∈ dg, delayInRange e) :
    ∀ e ∈ sendEvents s dg, delayInRange e := by
  have hms : delayInRange (.delayMs s.rdelay.toNat) := Nat.le_of_lt_succ s.rdelay.isLt
  have hbody : ∀ e ∈ bodyEvents s dg, delayInRange e := by
    intro e he
    obtain ⟨l, hl, he⟩ := List.mem_flatten.1 he
    rw [List.eq_of_mem_replicate hl] at he
    exact List.forall_mem_append.2 ⟨h, List.forall_mem_singleton.2 hms⟩ e he
  rw [sendEvents, List.forall_mem_append, List.forall_mem_append]
  exact ⟨⟨by simp [guardEnterEvents, delayInRange], hbody⟩, by simp [guardExitEvents, delayInRange]⟩

/-- Every delay of a whole command is in range: the configuration commands ask for none. -/
theorem bigStep_delayInRange {s t : State} {i : Instr} {es : List Event} (h : bigStep i s = .next t)
    (he : t.trace = s.trace ++ es) : ∀ e ∈ es, delayInRange e := by
  have hsend (hs : isSend i = true) : ∀ e ∈ es, delayInRange e := by
    obtain rfl | ⟨hT, ds, hds, rfl⟩ := bigStep_send_events hs h he
    · exact nofun
    · exact delayInRange_sendEvents s (delayInRange_pulseTrain _ hT s.period.isLt hds)
  cases i with
  | setPin pin =>
    obtain ⟨-, e⟩ | ⟨-, e⟩ := execSetPin_cases pin s
    · cases e.symm.trans h
    · obtain rfl := Host.Outcome.next.inj (e.symm.trans h)
      obtain rfl := List.append_cancel_left he
      simp [delayInRange]
  | setTiming =>
    obtain rfl := Host.Outcome.next.inj h
    obtain rfl := List.append_right_eq_self.1 he.symm
    exact nofun
  | sendNew | sendOld | sendCogex => exact hsend rfl

/-- Settles O54: the two kinds of delay among the events of a whole command. -/
theorem delayArgumentsStayInRange : Obligations.DelayArgumentsStayInRange :=
  fun _ _ _ _ h he => ⟨fun _ hn => bigStep_delayInRange h he _ hn, fun _ hn => bigStep_delayInRange h he _ hn⟩

end Sys2Proof

/-! # SENDNEW, and what a send leaves behind

The validation of SENDNEW check by check; the operands it does not look at; the size and the requested time of a
datagram, summed over its symbols; and the end state of a whole send, read off `afterSend`. -/

namespace Sys2Proof

open Machine

/-! ### The validation of SENDNEW -/

section Checks

variable {addr : BitVec 32} {unit : Byte} {group : Bool} {dim : Byte}

theorem newFieldFault_address (ha : 2 ^ 26 ≤ addr.toNat) : newFieldFault addr unit group dim = some .address :=
  if_pos ha

theorem newFieldFault_unit (ha : addr.toNat < 2 ^ 26) (hg : group = false) (hu : 15 < unit.toNat) :
    newFieldFault addr unit group dim = some .unit := by
  rw [newFieldFault, if_neg (Nat.not_le.2 ha), if_pos ⟨hg, hu⟩]

/-- With a legal address and a legal or unused unit only the dim level is left to check. -/
theorem newFieldFault_of_unit_ok (ha : addr.toNat < 2 ^ 26) (hu : group = true ∨ unit.toNat ≤ 15) :
    newFieldFault addr unit group dim = if 15 < dim.toNat then some .dim else none := by
  have hunit : ¬(group = false ∧ 15 < unit.toNat) := by
    rintro ⟨rfl, hlt⟩
    exact Nat.not_le.2 hlt (by simpa using hu)
  rw [newFieldFault, if_neg (Nat.not_le.2 ha), if_neg hunit]

/-- A legal dim level is checked like level 0. -/
theorem newFieldFault_dim_zero (hd : dim.toNat ≤ 15) :
    newFieldFault addr unit group dim = newFieldFault addr unit group 0 := by
  simp [newFieldFault, Nat.not_lt.2 hd]

/-- The unit of a group command is not checked. -/
theorem newFieldFault_group (unit' : Byte) : newFieldFault addr unit true dim = newFieldFault addr unit' true dim := by
  simp [newFieldFault]

end Checks

/-- A send on a pad that exists reports the fault its validation finds (R271). -/
theorem beginSend_raised {p : Proto} {fields : Option Cause} {frame : Frame} {dim : DimLevel} {s : State} {c : Cause}
    (hp : s.pin.toNat < s.platform.nPins) (hf : sendFault fields s = some c) :
    beginSend p fields frame dim s = .next (raise c s) := by
  rw [beginSend, if_pos ((pinValid_iff s).2 hp), hf]

/-- The period is checked after the fields (R270). -/
theorem sendFault_timing {s : State} (hT : s.period.toNat ≤ 150) : sendFault none s = some .timing := if_pos hT

/-- Settles O14: the field checks one by one, each with those before it passed, then the period. -/
theorem sendNewReportsTheFirstFailedCheck : Obligations.SendNewReportsTheFirstFailedCheck := by
  intro s addr unit on group dim hp
  refine ⟨fun ha => beginSend_raised hp ?_, fun ha hg hu => beginSend_raised hp ?_,
    fun ha hu hd => beginSend_raised hp ?_, fun ha hu hd hT => beginSend_raised hp ?_⟩
  · rw [newFieldFault_address ha, sendFault]
  · rw [newFieldFault_unit ha hg hu, sendFault]
  · rw [newFieldFault_of_unit_ok ha hu, if_pos hd, sendFault]
  · rw [newFieldFault_of_unit_ok ha hu, if_neg (Nat.not_lt.2 hd), sendFault_timing hT]

/-- Settles O24: an off command's effective dim level is 0 (R103), and a legal one passes the same checks as 0. -/
theorem offCommandIgnoresItsDimLevel : Obligations.OffCommandIgnoresItsDimLevel := by
  intro s addr unit group dim hd
  have hfields := newFieldFault_dim_zero (addr := addr) (unit := unit) (group := group) hd
  have hdim : newDim false dim = newDim false 0 := rfl
  exact ⟨by simp only [exec, execSendNew, hfields, hdim], by simp only [bigStep, hfields, hdim]⟩

/-- The Frame of a group command (R101, R159). -/
theorem newFrame_of_group (addr : BitVec 32) (unit : Byte) (on : Bool) :
    newFrame addr unit on true = (addr <<< 6) ||| 0x20#32 ||| (if on then 0x10#32 else 0#32) := rfl

/-- Settles O25: neither the checks nor the Frame of a group command look at the unit. -/
theorem groupCommandIgnoresItsUnit : Obligations.GroupCommandIgnoresItsUnit := by
  intro s addr unit unit' on dim
  refine ⟨?_, newFrame_of_group addr unit on⟩
  simp only [bigStep, newFieldFault_group unit', newFrame_of_group]

/-! ### The datagrams, summed over their symbols -/

/-- The events of a NEW symbol: the Pulse Primitive's eight, or four for a marker (R130, R132). -/
def Machine.NewSymbol.events : NewSymbol → Nat
  | .start | .stop => 4
  | .bit _ | .dimmer => 8

/-- The periods a NEW symbol asks for: one a HIGH hold, and its durations (R113, R137). -/
def Machine.NewSymbol.periods : NewSymbol → Nat
  | .start | .stop => 11
  | .bit _ => 8
  | .dimmer => 4

/-- The periods an OLD or COGEX symbol asks for (R114, R115, R137). -/
def Machine.ShortSymbol.periods : ShortSymbol → Nat
  | .start => 4
  | .bit _ => 6

section Sums

variable (p : Nat) {T : Nat}

theorem length_newSymbol (hT : 0 < T) (y : NewSymbol) : (pulseEvents p T (newDurations T y)).length = y.events := by
  rw [pulseEvents_length]
  cases y with
  | start | stop => rfl
  | bit b => exact if_neg (newDurations_bit_ne_zero hT b)
  | dimmer => rw [newDurations_dimmer]; exact if_neg (Nat.ne_of_gt hT)

/-- A call with two phases asks for two periods and its durations. -/
theorem requestedUs_twoPhases {d : Nat × Nat} (hT : 150 < T) (hd : d.1 ≠ 0) :
    requestedUs (pulseEvents p T d) = 2 * T + (d.1 + d.2) := by
  rw [requestedUs_pulseEvents p d.1 d.2 hT, if_pos hd, Nat.add_assoc]

/-- A marker asks for one period and its duration. -/
theorem requestedUs_marker (hT : 150 < T) (d : Nat) : requestedUs (pulseEvents p T (0, d)) = T + d :=
  requestedUs_pulseEvents p 0 d hT

theorem requestedUs_newSymbol (hT : 150 < T) (y : NewSymbol) :
    requestedUs (pulseEvents p T (newDurations T y)) = y.periods * T := by
  cases y with
  | start | stop => rw [newDurations, requestedUs_marker p hT, NewSymbol.periods]; omega
  | bit b =>
    rw [requestedUs_twoPhases p hT (newDurations_bit_ne_zero (by omega) b), newDurations_bit_sum, NewSymbol.periods]
    omega
  | dimmer =>
    have hne : T ≠ 0 := by omega
    rw [newDurations_dimmer, requestedUs_twoPhases p hT hne, NewSymbol.periods]
    omega

theorem requestedUs_oldSymbol (hT : 150 < T) (y : ShortSymbol) :
    requestedUs (pulseEvents p T (oldDurations T y)) = y.periods * T := by
  cases y with
  | start => rw [oldDurations, requestedUs_marker p hT, ShortSymbol.periods]; omega
  | bit b =>
    rw [requestedUs_twoPhases p hT (oldDurations_bit_ne_zero (by omega) b), oldDurations_bit_sum, ShortSymbol.periods]
    omega

/-- The requested time of strung-together symbols, in periods. -/
theorem requestedUs_flatMap {α : Type} {f : α → List Event} {periods : α → Nat}
    (h : ∀ y, requestedUs (f y) = periods y * T) (ys : List α) :
    requestedUs (ys.flatMap f) = (ys.map periods).sum * T := by
  induction ys with
  | nil => simp
  | cons y ys ih => rw [List.flatMap_cons, requestedUs_append, h, ih, List.map_cons, List.sum_cons, Nat.add_mul]

theorem sum_msbFirst {f : NewSymbol → Nat} {c : Nat} (hf : ∀ b, f (.bit b) = c) {w : Nat} (v : BitVec w)
    (lo n : Nat) : ((msbFirst v lo n).map f).sum = n * c := by
  simp [msbFirst, Function.comp_def, hf]

/-- Two markers and 32 bits or, with a dim level, 35 bits and the dimmer indicator (R105): the sum of a measure that is
the same for both bits. -/
theorem sum_newDatagram {f : NewSymbol → Nat} {c : Nat} (hf : ∀ b, f (.bit b) = c) (frame : Frame)
    (dim : DimLevel) : ((newDatagram frame dim).map f).sum =
      f .start + (if dim = 0 then 32 * c else 35 * c + f .dimmer) + f .stop := by
  rw [newDatagram_eq, newPayload]
  split <;> simp only [List.map_append, List.map_cons, List.map_nil, List.sum_append, List.sum_cons, List.sum_nil,
    sum_msbFirst hf] <;> omega

theorem newDatagram_events (frame : Frame) (dim : DimLevel) :
    ((newDatagram frame dim).map NewSymbol.events).sum = if dim = 0 then 264 else 296 := by
  rw [sum_newDatagram (c := 8) fun _ => rfl]
  split <;> rfl

theorem newDatagram_periods (frame : Frame) (dim : DimLevel) :
    ((newDatagram frame dim).map NewSymbol.periods).sum = if dim = 0 then 278 else 306 := by
  rw [sum_newDatagram (c := 8) fun _ => rfl]
  split <;> rfl

/-- A marker and 12 bits (R117). -/
theorem shortDatagram_periods (frame : Frame) : ((shortDatagram frame).map ShortSymbol.periods).sum = 76 := by
  simp [shortDatagram, Function.comp_def, ShortSymbol.periods]

theorem newDatagramEvents_length (hT : 0 < T) (frame : Frame) (dim : DimLevel) :
    (newDatagramEvents p T frame dim).length = if dim = 0 then 264 else 296 := by
  rw [newDatagramEvents, List.length_flatMap, funext (length_newSymbol p hT)]
  exact newDatagram_events frame dim

theorem requestedUs_newDatagramEvents (hT : 150 < T) (frame : Frame) (dim : DimLevel) :
    requestedUs (newDatagramEvents p T frame dim) = if dim = 0 then 278 * T else 306 * T := by
  rw [newDatagramEvents, requestedUs_flatMap (requestedUs_newSymbol p hT), newDatagram_periods, ite_mul]

theorem requestedUs_oldDatagramEvents (hT : 150 < T) (frame : Frame) :
    requestedUs (oldDatagramEvents p T frame) = 76 * T := by
  rw [oldDatagramEvents, requestedUs_flatMap (requestedUs_oldSymbol p hT), shortDatagram_periods]

end Sums

/-- Settles O55: the periods of the symbols, whatever their bits; a COGEX datagram is an OLD one (R191). -/
theorem datagramRequestedTimeIsAMultipleOfThePeriod : Obligations.DatagramRequestedTimeIsAMultipleOfThePeriod :=
  fun p _ frame dim hT => ⟨requestedUs_newDatagramEvents p hT frame dim, requestedUs_oldDatagramEvents p hT frame,
    requestedUs_oldDatagramEvents p hT frame⟩

/-! ### The whole of a send -/

theorem bodyEvents_length (s : State) (dg : List Event) :
    (bodyEvents s dg).length = s.repeats.toNat * (dg.length + 1) := by
  simp [bodyEvents]

/-- The guard's six events, and each datagram with its inter-repeat delay. -/
theorem sendEvents_length (s : State) (dg : List Event) :
    (sendEvents s dg).length = 6 + s.repeats.toNat * (dg.length + 1) := by
  have henter : (guardEnterEvents s).length = 4 := rfl
  have hexit : (guardExitEvents s).length = 2 := rfl
  rw [sendEvents, List.length_append, List.length_append, henter, bodyEvents_length, hexit]
  omega

/-- The whole trace of a SENDNEW: six events of the guard and, a repetition, a datagram and one delay (R157). -/
theorem sendEvents_new_length {s : State} (p : Nat) (hT : 0 < s.period.toNat) (frame : Frame) (dim : DimLevel) :
    (sendEvents s (newDatagramEvents p s.period.toNat frame dim)).length =
      6 + s.repeats.toNat * (if dim = 0 then 265 else 297) := by
  rw [sendEvents_length, newDatagramEvents_length p hT]
  split <;> rfl

/-- Settles O46: the run from acceptance on (R252), whose trace is `sendEvents`. -/
theorem sendNewRunsToItsEnd : Obligations.SendNewRunsToItsEnd := by
  intro s addr unit on group dim hp hi hT
  have hpos : 0 < s.period.toNat := by omega
  exact ⟨acceptSend .new (newFrame addr unit on group) (newDim on dim) s, _, _,
    beginSend_accepted _ _ hp (newFieldFault_eq_none hi) hT,
    runSteps_acceptSend ⟨(pinValid_iff s).2 hp, hT⟩ .new _ _, rfl, rfl, rfl, rfl,
    sendEvents_new_length _ hpos _ _, newDatagramEvents_length _ hpos _ _⟩

/-- A send that passes validation is performed to its end. -/
theorem bigStep_performed {i : Instr} {s : State} (hs : isSend i = true) (hp : s.pin.toNat < s.platform.nPins)
    (hf : commandFault i s = none) : ∃ dg, bigStep i s = .next (afterSend s dg) := by
  have hwhole {fields : Option Cause} (dg : List Event) (hf : sendFault fields s = none) :
      wholeSend fields dg s = .next (afterSend s dg) := by
    rw [wholeSend, if_pos ((pinValid_iff s).2 hp), hf]
  cases i with
  | setPin | setTiming => cases hs
  | sendNew | sendOld | sendCogex => exact ⟨_, hwhole _ hf⟩

/-! What the end of a send leaves on the pads: one LOW write of pad `PIN`, if a datagram was sent. -/

section AfterSend

variable {s : State} (dg : List Event)

theorem afterSend_pads_of_repeats (hn : s.repeats ≠ 0) : (afterSend s dg).pads =
    PadSpace.write s.pads s.pin.toNat { s.pad s.pin.toNat with lvl := .low } := if_neg hn

theorem afterSend_pads_of_none (hn : s.repeats = 0) : (afterSend s dg).pads = s.pads := if_pos hn

theorem afterSend_pad_low (hn : s.repeats ≠ 0) : ((afterSend s dg).pad s.pin.toNat).lvl = .low := by
  rw [State.pad, afterSend_pads_of_repeats dg hn, PadSpace.read_write_same]

theorem afterSend_pad_other {q : Nat} (hq : q ≠ s.pin.toNat) : (afterSend s dg).pad q = s.pad q := by
  by_cases hn : s.repeats = 0
  · rw [State.pad, afterSend_pads_of_none dg hn, State.pad]
  · rw [State.pad, afterSend_pads_of_repeats dg hn, PadSpace.read_write_other _ _ hq, State.pad]

end AfterSend

/-- Settles O49: by R254 the run is the whole send, and its end state is `afterSend`. -/
theorem sendRestoresTheRadioAndLeavesThePinLow : Obligations.SendRestoresTheRadioAndLeavesThePinLow := by
  intro s i ho hs hi hp hT
  obtain ⟨dg, hdg⟩ := bigStep_performed hs hp (commandFault_eq_none hi hT)
  refine ⟨afterSend s dg, s.freeDraws, (runSteps_offer_eq_bigStep ho i).trans hdg, rfl, rfl, rfl, rfl, rfl, rfl, rfl,
    rfl, afterSend_pad_low dg, afterSend_pads_of_none dg, fun _ => afterSend_pad_other dg, rfl, rfl, rfl⟩

end Sys2Proof

/-! # SENDOLD

The validation of SENDOLD check by check, and the size of its datagram; the run itself is the one of every send. -/

namespace Sys2Proof

open Machine

/-! ### The validation of SENDOLD -/

section OldChecks

variable {house unit : Byte}

/-- `CHAR_A` is the letter 'A'. -/
theorem oldFieldFault_address (hh : house.toNat < 65 ∨ 80 < house.toNat) :
    oldFieldFault house unit = some .address := if_pos hh

/-- With a legal letter only the unit is left to check. -/
theorem oldFieldFault_of_house_ok (hlo : 65 ≤ house.toNat) (hhi : house.toNat ≤ 80) :
    oldFieldFault house unit = if unit.toNat < 1 ∨ 16 < unit.toNat then some .unit else none :=
  if_neg (not_or_intro (Nat.not_lt.2 hlo) (Nat.not_lt.2 hhi))

end OldChecks

/-- Settles O15: the letter, the unit and the period, each with the checks before it passed. -/
theorem sendOldReportsTheFirstFailedCheck : Obligations.SendOldReportsTheFirstFailedCheck := by
  intro s house unit on hp
  refine ⟨fun hh => beginSend_raised hp ?_, fun hlo hhi hu => beginSend_raised hp ?_,
    fun hlo hhi hu1 hu16 hT => beginSend_raised hp ?_⟩
  · rw [oldFieldFault_address hh, sendFault]
  · rw [oldFieldFault_of_house_ok hlo hhi, if_pos hu, sendFault]
  · rw [oldFieldFault_of_house_ok hlo hhi, if_neg (not_or_intro (Nat.not_lt.2 hu1) (Nat.not_lt.2 hu16)),
      sendFault_timing hT]

/-! ### The size of an OLD datagram -/

/-- The events of an OLD or COGEX symbol: the Pulse Primitive's eight, or four for the marker (R130, R132). -/
def Machine.ShortSymbol.events : ShortSymbol → Nat
  | .start => 4
  | .bit _ => 8

section OldSize

variable (p : Nat) {T : Nat} (hT : 0 < T)
include hT

theorem length_oldSymbol (y : ShortSymbol) : (pulseEvents p T (oldDurations T y)).length = y.events := by
  rw [pulseEvents_length]
  cases y with
  | start => rfl
  | bit b => exact if_neg (oldDurations_bit_ne_zero hT b)

/-- A marker and 12 bits (R117, R176). -/
theorem oldDatagramEvents_length (frame : Frame) : (oldDatagramEvents p T frame).length = 100 := by
  rw [oldDatagramEvents, List.length_flatMap, funext (length_oldSymbol p hT)]
  simp [shortDatagram, Function.comp_def, ShortSymbol.events]

/-- The whole trace of a SENDOLD: six events of the guard and, a repetition, a datagram and one delay (R176). -/
theorem sendEvents_old_length (s : State) (frame : Frame) :
    (sendEvents s (oldDatagramEvents p T frame)).length = 6 + s.repeats.toNat * 101 := by
  rw [sendEvents_length, oldDatagramEvents_length p hT]

end OldSize

/-- Settles O47: the run from acceptance on (R252), whose trace is `sendEvents`. -/
theorem sendOldRunsToItsEnd : Obligations.SendOldRunsToItsEnd := by
  intro s house unit on hp hi hT
  have hpos : 0 < s.period.toNat := by omega
  exact ⟨acceptSend .old (oldFrame s.platform house unit on) 0 s, _, _,
    beginSend_accepted _ _ hp (oldFieldFault_eq_none hi) hT,
    runSteps_acceptSend ⟨(pinValid_iff s).2 hp, hT⟩ .old _ _, rfl, rfl, rfl, rfl,
    sendEvents_old_length _ hpos s _, oldDatagramEvents_length _ hpos _, requestedUs_oldDatagramEvents _ hT _⟩

end Sys2Proof

/-! # SENDCOGEX

The validation of SENDCOGEX check by check; its datagram is the OLD one, so the run and its sizes are those of SENDOLD. -/

namespace Sys2Proof

open Machine

/-! ### The validation of SENDCOGEX -/

section CogexChecks

variable {house unit : Byte}

theorem cogexFieldFault_address (hh : house.toNat < 1 ∨ 15 < house.toNat) :
    cogexFieldFault house unit = some .address := if_pos hh

/-- With a legal house number only the unit is left to check. -/
theorem cogexFieldFault_of_house_ok (hlo : 1 ≤ house.toNat) (hhi : house.toNat ≤ 15) :
    cogexFieldFault house unit = if unit.toNat < 1 ∨ 15 < unit.toNat then some .unit else none :=
  if_neg (not_or_intro (Nat.not_lt.2 hlo) (Nat.not_lt.2 hhi))

end CogexChecks

/-- Settles O16: the house number, the unit and the period, each with the checks before it passed. -/
theorem sendCogexReportsTheFirstFailedCheck : Obligations.SendCogexReportsTheFirstFailedCheck := by
  intro s house unit on hp
  refine ⟨fun hh => beginSend_raised hp ?_, fun hlo hhi hu => beginSend_raised hp ?_,
    fun hlo hhi hu1 hu15 hT => beginSend_raised hp ?_⟩
  · rw [cogexFieldFault_address hh, sendFault]
  · rw [cogexFieldFault_of_house_ok hlo hhi, if_pos hu, sendFault]
  · rw [cogexFieldFault_of_house_ok hlo hhi, if_neg (not_or_intro (Nat.not_lt.2 hu1) (Nat.not_lt.2 hu15)),
      sendFault_timing hT]

/-! ### The whole of a SENDCOGEX -/

/-- Settles O48: the run from acceptance on (R252); what it sends is measured as the equal OLD datagram (R191). -/
theorem sendCogexRunsToItsEnd : Obligations.SendCogexRunsToItsEnd := by
  intro s house unit on hp hi hT
  have hpos : 0 < s.period.toNat := by omega
  have hdg := cogexDatagramEvents_eq s.pin.toNat s.period.toNat
  refine ⟨acceptSend .cogex (cogexFrame s.platform house unit on) 0 s, _, _,
    beginSend_accepted _ _ hp (cogexFieldFault_eq_none hi) hT,
    runSteps_acceptSend ⟨(pinValid_iff s).2 hp, hT⟩ .cogex _ _, rfl, rfl, rfl, ?_,
    sendEvents_old_length _ hpos s _, ?_, ?_, hdg⟩
  · rw [hdg]; rfl
  · rw [hdg, oldDatagramEvents_length _ hpos]
  · rw [hdg, requestedUs_oldDatagramEvents _ hT]

end Sys2Proof

/-! # The Mode Guard

The runs through the guard's two halves, the separation of guard and body read off the table's rows, and the send that
consists of the guard alone. -/

namespace Sys2Proof

open Machine

/-! ### The two halves of the guard -/

/-- Settles O34: `State.entered` is the state after the four rows of the entry. -/
theorem guardEnterSavesThenForcesTheRadio : Obligations.GuardEnterSavesThenForcesTheRadio :=
  fun _ hq => runSteps_guardEnter hq

/-- Settles O35: after the two restoring rows, row 22 draws the next free working registers. -/
theorem guardExitRestoresTheRadio : Obligations.GuardExitRestoresTheRadio :=
  fun s hq => ⟨freeWorking s.freeDraws, s.freeDraws + 1, runSteps_guardExit hq⟩

/-! ### Guard and body apart -/

/-- A Pulse Primitive call emits pad events and delays only (R130). -/
theorem isRadioEvent_pulseEvents (p T : Nat) (d : Nat × Nat) : ∀ e ∈ pulseEvents p T d, isRadioEvent e = false := by
  by_cases hd : d.1 = 0 <;> simp [pulseEvents, phaseEvents, isRadioEvent, hd]

/-- What R210 asks of a transition: whatever it appends, the repeated part leaves the radio alone, and the positions
outside a datagram leave the pads alone. -/
def KeepsBodyAndGuardApart (s t : State) : Prop :=
  ∃ es, t.trace = s.trace ++ es ∧
    (inBody s.seq = true → s.seq ≠ .restOpMode → t.radio = s.radio ∧ ∀ e ∈ es, isRadioEvent e = false) ∧
    (inDatagram s.seq = false → t.pads = s.pads ∧ ∀ e ∈ es, isRadioEvent e = true)

/-- A register transaction of the guard, outside the repeated part. -/
theorem KeepsBodyAndGuardApart.of_radio {s t : State} {e : Event} (hs : inBody s.seq = false ∨ s.seq = .restOpMode)
    (ht : t.trace = s.trace ++ [e]) (hp : t.pads = s.pads) (he : isRadioEvent e = true) : KeepsBodyAndGuardApart s t :=
  ⟨[e], ht, fun hbody hne => absurd hbody (by simp [hs.resolve_right hne]), fun _ => ⟨hp, by simpa using he⟩⟩

/-- Operations of the repeated part inside a datagram. -/
theorem KeepsBodyAndGuardApart.of_datagram {s t : State} {es : List Event} (hs : inDatagram s.seq = true)
    (ht : t.trace = s.trace ++ es) (hr : t.radio = s.radio) (he : ∀ e ∈ es, isRadioEvent e = false) :
    KeepsBodyAndGuardApart s t :=
  ⟨es, ht, fun _ _ => ⟨hr, he⟩, fun hout => by simp [hs] at hout⟩

/-- A transition of the sequencer alone. -/
theorem KeepsBodyAndGuardApart.of_quiet {s t : State} (ht : t.trace = s.trace) (hr : t.radio = s.radio)
    (hp : t.pads = s.pads) : KeepsBodyAndGuardApart s t :=
  ⟨[], by simpa using ht, fun _ _ => ⟨hr, nofun⟩, fun _ => ⟨hp, nofun⟩⟩

/-- Each row is a register transaction, a part of a datagram with its delay, or a move of the sequencer. -/
theorem Machine.SendRow.keepsBodyAndGuardApart {n : Nat} {s t : State} (h : SendRow n s t) :
    KeepsBodyAndGuardApart s t := by
  cases h with
  | saveOpMode hq | saveModul hq | setModul hq | setOpMode hq | restModul hq =>
    exact .of_radio (.inl (by rw [hq]; rfl)) rfl rfl rfl
  | restOpMode hq => exact .of_radio (.inr hq) rfl rfl rfl
  | repeatAgain | repeatEnd | done => exact .of_quiet rfl rfl rfl
  | gap hq => exact .of_datagram (by rw [hq]; rfl) rfl rfl (by simp [isRadioEvent])
  | startNew hq | startShort hq | dimmer hq | newBit hq | newLastOnOff hq | newLastDim hq | shortBit hq
  | shortLast hq | dimBit hq | dimLast hq | stop hq =>
    exact .of_datagram (by rw [hq]; rfl) rfl rfl (isRadioEvent_pulseEvents _ _ _)

/-- Settles O38: during a send a step fires a row. -/
theorem bodyAndGuardStayApart : Obligations.BodyAndGuardStayApart := by
  intro s t hs h
  rw [step_of_portClosed (portClosed_of_seq hs)] at h
  obtain ⟨n, hrow, -⟩ := fireRow_row hs h
  exact hrow.keepsBodyAndGuardApart

/-! ### A send with no repeats -/

/-- With no repeats a send's events are the guard's alone (R209). -/
theorem sendEvents_of_no_repeats {s : State} (hn : s.repeats = 0) (dg : List Event) :
    sendEvents s dg = guardEnterEvents s ++ guardExitEvents s := by
  simp [sendEvents, bodyEvents, hn]

/-- With no repeats a send that passes validation takes its acceptance, the four rows of the guard's entry, one repeat
test, the two rows of its exit and row 22 (R252). -/
theorem commandSteps_of_no_repeats {i : Instr} {s : State} (hs : isSend i = true) (hp : s.pinValid = true)
    (hf : commandFault i s = none) (hn : s.repeats = 0) : commandSteps i s = 9 := by
  simp [commandSteps, hs, hp, hf, hn]

/-- Settles O51: by R254 the run is the whole send, whose end state is `afterSend`. -/
theorem zeroRepeatsRunOnlyTheGuard : Obligations.ZeroRepeatsRunOnlyTheGuard := by
  intro s i ho hs hi hp hT hn
  have hf : commandFault i s = none := commandFault_eq_none hi hT
  obtain ⟨dg, hdg⟩ := bigStep_performed hs hp hf
  have hrun : runSteps 9 (offer (encode i) s) = .next (afterSend s dg) := by
    rw [← commandSteps_of_no_repeats hs ((pinValid_iff s).2 hp) hf hn, runSteps_offer_eq_bigStep ho, hdg]
  have htrace : (afterSend s dg).trace = s.trace ++ (guardEnterEvents s ++ guardExitEvents s) :=
    congrArg (s.trace ++ ·) (sendEvents_of_no_repeats hn dg)
  exact ⟨afterSend s dg, hrun, rfl, afterSend_pads_of_none dg hn, htrace⟩

end Sys2Proof

/-! # SETPIN, SETTIMING and the offers that are refused

Each command is performed or refused by what it asks of its pin; with the table's progress during a send this says when
the machine stops. -/

namespace Sys2Proof

open Machine

/-! ### SETPIN on a pad that exists -/

theorem exec_setPin_eq {pin : Byte} {s : State} (hp : pin.toNat < s.platform.nPins) :
    exec (.setPin pin) s = .next (pinSelected pin s) := by
  obtain ⟨hge, -⟩ | ⟨-, e⟩ := execSetPin_cases pin s
  · exact absurd hp (Nat.not_lt.2 hge)
  · exact e

theorem exec_setPin_refused {pin : Byte} {s : State} (hp : s.platform.nPins ≤ pin.toNat) :
    exec (.setPin pin) s = .refused .invalidPin := by
  obtain ⟨-, e⟩ | ⟨hlt, -⟩ := execSetPin_cases pin s
  · exact e
  · exact absurd hp (Nat.not_le.2 hlt)

/-- A SETPIN that is performed leaves exactly its own effect. -/
theorem exec_setPin_next {pin : Byte} {s t : State} (h : exec (.setPin pin) s = .next t) : t = pinSelected pin s := by
  obtain ⟨-, e⟩ | ⟨-, e⟩ := execSetPin_cases pin s
  · cases e.symm.trans h
  · cases e.symm.trans h
    rfl

/-- SETPIN leaves its pad an output at LOW (R215), -/
theorem pinSelected_pad_same (pin : Byte) (s : State) : (pinSelected pin s).pad pin.toNat = ⟨.output, .low⟩ :=
  PadSpace.read_write_same s.pads pin.toNat ⟨.output, .low⟩

/-- and every other pad alone (R217, R224). -/
theorem pinSelected_pad_other {pin : Byte} (s : State) {q : Nat} (hq : q ≠ pin.toNat) :
    (pinSelected pin s).pad q = s.pad q :=
  PadSpace.read_write_other s.pads ⟨.output, .low⟩ hq

/-- Settles O10: the two pad operations fold into one write of the selected pad, which is `pinSelected`. -/
theorem setPinSelectsAndDrivesTheNewPadLow : Obligations.SetPinSelectsAndDrivesTheNewPadLow :=
  fun s pin hp =>
    ⟨pinSelected pin s, exec_setPin_eq hp, pinSelected_pad_same pin s, fun _ hq => pinSelected_pad_other s hq, rfl⟩

/-- Settles O11: the pad that is left is one of those SETPIN does not write. -/
theorem setPinLeavesTheOldPadAlone : Obligations.SetPinLeavesTheOldPadAlone := by
  intro s t pin h hne
  have hq : s.pin.toNat ≠ pin.toNat := fun e => hne (BitVec.eq_of_toNat_eq e.symm)
  rw [exec_setPin_next h, pinSelected_pad_other s hq]
  exact ⟨rfl, rfl⟩

/-- Settles O12: SETTIMING is one replacement of the three registers, and the report is cleared. -/
theorem setTimingReplacesTheThreeTimingRegisters : Obligations.SetTimingReplacesTheThreeTimingRegisters :=
  fun _ _ _ _ => rfl

/-! ### The commands that are refused -/

/-- The pin a command works on names a pad: SETPIN's operand, or `PIN` for a send (R218). -/
def commandAllowed (s : State) : Instr → Bool
  | .setPin pin => pin.toNat < s.platform.nPins
  | .setTiming _ _ _ => true
  | .sendNew _ _ _ _ _ | .sendOld _ _ _ | .sendCogex _ _ _ => s.pinValid

theorem commandAllowed_of_isSend {i : Instr} (s : State) (hs : isSend i = true) : commandAllowed s i = s.pinValid := by
  cases i with
  | setPin | setTiming => cases hs
  | sendNew | sendOld | sendCogex => rfl

/-- The acceptance of a send on a pad that exists answers a next state, with a fault reported or not. -/
theorem beginSend_answers (p : Proto) (fields : Option Cause) (frame : Frame) (dim : DimLevel) {s : State}
    (hv : s.pinValid = true) : ∃ t, beginSend p fields frame dim s = .next t :=
  ⟨_, if_pos hv⟩

theorem beginSend_refused (p : Proto) (fields : Option Cause) (frame : Frame) (dim : DimLevel) {s : State}
    (hv : s.pinValid = false) : beginSend p fields frame dim s = .refused .invalidPin :=
  if_neg (by simp [hv])

/-- An allowed command answers a next state, -/
theorem exec_answers {i : Instr} {s : State} (h : commandAllowed s i = true) : ∃ t, exec i s = .next t := by
  cases i with
  | setPin pin => exact ⟨_, exec_setPin_eq (of_decide_eq_true h)⟩
  | setTiming => exact ⟨_, rfl⟩
  | sendNew | sendOld | sendCogex => exact beginSend_answers _ _ _ _ h

/-- and every other is refused (U1). -/
theorem exec_refused {i : Instr} {s : State} (h : commandAllowed s i = false) : exec i s = .refused .invalidPin := by
  cases i with
  | setPin pin => exact exec_setPin_refused (Nat.not_lt.1 (of_decide_eq_false h))
  | setTiming => cases h
  | sendNew | sendOld | sendCogex => exact beginSend_refused _ _ _ _ h

/-- Settles O13: neither command's pin names a pad. -/
theorem invalidPinIsRefused : Obligations.InvalidPinIsRefused := by
  refine fun s => ⟨fun pin hp => exec_setPin_refused hp, fun hp i hs => exec_refused ?_⟩
  rw [commandAllowed_of_isSend s hs]
  exact decide_eq_false (Nat.not_lt.2 hp)

/-! ### Progress during a send -/

/-- A send that is under way can emit its pulses (R25, R218). -/
theorem Inv.canEmit {s : State} (hs : Inv s) (hq : s.seq ≠ .idle) : CanEmit s := by
  have hb : s.busy = true := hs.busyIffRunning.2 hq
  exact ⟨(pinValid_iff s).2 (hs.busyPin hb), hs.busyPeriod hb⟩

/-- A row of the NEW payload is enabled at every index (R242). -/
theorem exists_row_newBits {s : State} (hq : s.seq = .bits) (hp : s.work.proto = .new) : ∃ n t, SendRow n s t := by
  by_cases hi : s.work.bitIdx = 0
  · by_cases hd : s.work.dim = 0
    · exact ⟨_, _, .newLastOnOff hq hp hi hd⟩
    · exact ⟨_, _, .newLastDim hq hp hi hd⟩
  · by_cases hd : s.work.bitIdx = 4 ∧ s.work.dim ≠ 0
    · exact ⟨_, _, .dimmer hq hp hd.1 hd.2⟩
    · exact ⟨_, _, .newBit hq hp (by bv_omega) hd⟩

/-- A row of the OLD and COGEX payload is enabled at every index up to 11 (R244). -/
theorem exists_row_shortBits {s : State} (hq : s.seq = .bits) (hp : s.work.proto = .old ∨ s.work.proto = .cogex)
    (hi : s.work.bitIdx.toNat ≤ 11) : ∃ n t, SendRow n s t := by
  rcases Nat.lt_or_eq_of_le hi with hlt | heq
  · exact ⟨_, _, .shortBit hq hp hlt⟩
  · exact ⟨_, _, .shortLast hq hp (BitVec.eq_of_toNat_eq heq)⟩

/-- Some row is enabled at every position of a send that the invariant allows (R250). -/
theorem Inv.exists_row {s : State} (hs : Inv s) (hne : s.seq ≠ .idle) : ∃ n t, SendRow n s t := by
  cases hq : s.seq with
  | idle => exact absurd hq hne
  | saveOpMode => exact ⟨_, _, .saveOpMode hq⟩
  | saveModul => exact ⟨_, _, .saveModul hq⟩
  | setModul => exact ⟨_, _, .setModul hq⟩
  | setOpMode => exact ⟨_, _, .setOpMode hq⟩
  | repTest =>
    by_cases hn : s.work.repCnt = 0
    · exact ⟨_, _, .repeatEnd hq hn⟩
    · exact ⟨_, _, .repeatAgain hq hn⟩
  | start =>
    cases hp : s.work.proto with
    | new => exact ⟨_, _, .startNew hq hp⟩
    | old => exact ⟨_, _, .startShort hq (.inl hp)⟩
    | cogex => exact ⟨_, _, .startShort hq (.inr hp)⟩
  | bits =>
    cases hp : s.work.proto with
    | new => exact exists_row_newBits hq hp
    | old => exact exists_row_shortBits hq (.inl hp) (hs.shortRange hq (by simp [hp]))
    | cogex => exact exists_row_shortBits hq (.inr hp) (hs.shortRange hq (by simp [hp]))
  | dimBits =>
    obtain ⟨-, -, hr⟩ := hs.dimRange hq
    by_cases hi : s.work.bitIdx = 0
    · exact ⟨_, _, .dimLast hq hi⟩
    · exact ⟨_, _, .dimBit hq (by bv_omega) hr⟩
  | stop => exact ⟨_, _, .stop hq⟩
  | gap => exact ⟨_, _, .gap hq (hs.counted (by rw [hq]; rfl))⟩
  | restOpMode => exact ⟨_, _, .restOpMode hq⟩
  | restModul => exact ⟨_, _, .restModul hq⟩
  | done => exact ⟨_, _, .done hq⟩

/-- With the port closed a send is under way: the invariant leaves no other state. -/
theorem Inv.running_of_portClosed {s : State} (hs : Inv s) (hc : portOpen s = false) : s.seq ≠ .idle := by
  intro hq
  have hb : s.busy = false := by simpa [hq] using hs.busyIffRunning
  simp [portOpen_iff.2 ⟨hq, hb⟩] at hc

/-- Nothing faults or is refused between acceptance and the return to `IDLE` (R279). -/
theorem Inv.safeStep_of_portClosed {s : State} (hs : Inv s) (hc : portOpen s = false) : SafeStep s := by
  have hne := hs.running_of_portClosed hc
  obtain ⟨n, t, hrow⟩ := hs.exists_row hne
  exact ⟨t, (step_of_portClosed hc).trans (fireRow_of_row (.emitting (hs.canEmit hne) hrow))⟩

/-! ### The offers to the open port -/

/-- A command is allowed as an offer when its pin names a pad. -/
theorem inputAllowed_of_command {s : State} {w : CommandWord} {rest : List Input} {i : Instr}
    (hi : s.inputs = .word w :: rest) (hd : decode w = .ok i) : inputAllowed s = commandAllowed s i := by
  simp only [inputAllowed, hi, hd]
  cases i <;> rfl

/-- The open port takes every move that is allowed. -/
theorem safeStep_of_portOpen {s : State} (ho : portOpen s = true) (ha : inputAllowed s = true) : SafeStep s := by
  cases hi : s.inputs with
  | nil => exact ⟨_, by rw [step_of_portOpen ho, takeInput, hi]⟩
  | cons move rest =>
    cases move with
    | reset | driverWrite => exact ⟨_, by rw [step_of_portOpen ho, takeInput, hi]⟩
    | word w =>
      cases hd : decode w with
      | error e => exact ⟨_, step_word_of_error ho hi hd⟩
      | ok i =>
        rw [inputAllowed_of_command hi hd] at ha
        obtain ⟨t, ht⟩ := exec_answers (s := { s with inputs := rest }) ha
        exact ⟨t, by rw [step_word ho hi, acceptWord_of_ok hd, ht]⟩

/-- Only a command whose pin names no pad is not allowed. -/
theorem exists_command_of_not_inputAllowed {s : State} (ha : inputAllowed s = false) :
    ∃ w rest i, s.inputs = .word w :: rest ∧ decode w = .ok i ∧ commandAllowed s i = false := by
  cases hi : s.inputs with
  | nil => simp [inputAllowed, hi] at ha
  | cons move rest =>
    cases move with
    | reset | driverWrite => simp [inputAllowed, hi] at ha
    | word w =>
      cases hd : decode w with
      | error e => simp [inputAllowed, hi, hd] at ha
      | ok i => exact ⟨w, rest, i, rfl, hd, (inputAllowed_of_command hi hd).symm.trans ha⟩

/-- The open port refuses every other move. -/
theorem step_refused_of_portOpen {s : State} (ho : portOpen s = true) (ha : inputAllowed s = false) :
    step s = .refused .invalidPin := by
  obtain ⟨w, rest, i, hi, hd, hn⟩ := exists_command_of_not_inputAllowed ha
  rw [step_word ho hi, acceptWord_of_ok hd]
  exact exec_refused hn

/-- Settles O33: a row is enabled and can emit while the port is closed, and the open port takes what is allowed. -/
theorem onlyUndefinedOffersStopTheMachine : Obligations.OnlyUndefinedOffersStopTheMachine := by
  refine fun s hs => ⟨fun h => ?_, step_refused_of_portOpen⟩
  cases hport : portOpen s with
  | false => exact hs.safeStep_of_portClosed hport
  | true => exact safeStep_of_portOpen hport (h.resolve_left (by simp [hport]))

end Sys2Proof

/-! # The sequencer against its table

The table of R237 and the step agree in both directions, a state of a send enables one row, the rows together are the
whole command, and every row brings the end of the send one step nearer. -/

namespace Sys2Proof.Machine

/-- The number of the row of R237 that position, protocol and counters select. In `IDLE` there is none but the
acceptance of a command, row 1. -/
def State.rowNumber (s : State) : Nat :=
  match s.seq with
  | .idle => 1
  | .saveOpMode => 2
  | .saveModul => 3
  | .setModul => 4
  | .setOpMode => 5
  | .repTest => if s.work.repCnt = 0 then 7 else 6
  | .start => if s.work.proto = .new then 8 else 9
  | .bits =>
    if s.work.proto = .new then
      if s.work.bitIdx = 4 ∧ s.work.dim ≠ 0 then 10
      else if s.work.bitIdx ≠ 0 then 11
      else if s.work.dim = 0 then 12 else 13
    else if s.work.bitIdx = 11 then 15 else 14
  | .dimBits => if s.work.bitIdx = 0 then 17 else 16
  | .stop => 18
  | .gap => 19
  | .restOpMode => 20
  | .restModul => 21
  | .done => 22

theorem ne_new_of_short {p : Proto} (hp : p = .old ∨ p = .cogex) : p ≠ .new := by
  rintro rfl
  simp at hp

/-- The conditions of the rows exclude one another: an enabled row is the one the state selects (R250). -/
theorem SendRow.eq_rowNumber {n : Nat} {s t : State} (h : SendRow n s t) : n = s.rowNumber := by
  cases h with
  | saveOpMode hq | saveModul hq | setModul hq | setOpMode hq | stop hq | gap hq | restOpMode hq | restModul hq
  | done hq => simp [State.rowNumber, hq]
  | repeatAgain hq hn => simp only [State.rowNumber, hq, if_neg hn]
  | repeatEnd hq hn => simp [State.rowNumber, hq, hn]
  | startNew hq hp => simp [State.rowNumber, hq, hp]
  | startShort hq hp => simp [State.rowNumber, hq, ne_new_of_short hp]
  | dimmer hq hp hi hd => simp only [State.rowNumber, hq, hp, if_true, if_pos (And.intro hi hd)]
  | newLastOnOff hq hp hi hd => simp [State.rowNumber, hq, hp, hi, hd]
  | newLastDim hq hp hi hd => simpa [State.rowNumber, hq, hp, hi] using hd
  | newBit hq hp hi hd =>
    have hi : s.work.bitIdx ≠ 0 := by bv_omega
    simp only [State.rowNumber, hq, hp, if_true, if_neg hd, if_pos hi]
  | shortBit hq hp hi =>
    have hi : s.work.bitIdx ≠ 11 := by bv_omega
    simp only [State.rowNumber, hq, if_neg (ne_new_of_short hp), if_neg hi]
  | shortLast hq hp hi => simp [State.rowNumber, hq, ne_new_of_short hp, hi]
  | dimBit hq hi hr =>
    have hi : s.work.bitIdx ≠ 0 := by bv_omega
    simp only [State.rowNumber, hq, if_neg hi]
  | dimLast hq hi => simp [State.rowNumber, hq, hi]

/-! ### The steps a send has left -/

/-- The steps of the datagram under way, its inter-repeat delay included. -/
def State.datagramStepsLeft (s : State) : Nat :=
  match s.seq with
  | .start => datagramSteps s.work.proto s.work.dim - 1
  | .bits =>
    if s.work.proto = .new then s.work.bitIdx.toNat + (datagramSteps .new s.work.dim - 33)
    else 13 - s.work.bitIdx.toNat
  | .dimBits => s.work.bitIdx.toNat + 3
  | .stop => 2
  | .gap => 1
  | _ => 0

/-- The steps of a send up to `IDLE` (R252): those of the guard, of the datagrams still to begin, and of the one under
way, which `REP_CNT` still counts (R248). -/
def State.stepsLeft (s : State) : Nat :=
  match s.seq with
  | .idle => 0
  | .saveOpMode => 8 + s.repeats.toNat * datagramSteps s.work.proto s.work.dim
  | .saveModul => 7 + s.repeats.toNat * datagramSteps s.work.proto s.work.dim
  | .setModul => 6 + s.repeats.toNat * datagramSteps s.work.proto s.work.dim
  | .setOpMode => 5 + s.repeats.toNat * datagramSteps s.work.proto s.work.dim
  | .repTest => 4 + s.work.repCnt.toNat * datagramSteps s.work.proto s.work.dim
  | .start | .bits | .dimBits | .stop | .gap =>
    4 + (s.work.repCnt - 1).toNat * datagramSteps s.work.proto s.work.dim + s.datagramStepsLeft
  | .restOpMode => 3
  | .restModul => 2
  | .done => 1

end Sys2Proof.Machine

namespace Sys2Proof

open Machine

theorem stepsLeft_eq_zero {s : State} : s.stepsLeft = 0 ↔ s.seq = .idle := by
  cases hq : s.seq <;> simp [State.stepsLeft, hq]

theorem datagramSteps_onOff {dim : DimLevel} (hd : dim = 0) : datagramSteps .new dim = 36 := if_pos hd

theorem datagramSteps_dim {dim : DimLevel} (hd : dim ≠ 0) : datagramSteps .new dim = 40 := if_neg hd

theorem datagramSteps_short {p : Proto} (hp : p = .old ∨ p = .cogex) (dim : DimLevel) : datagramSteps p dim = 15 := by
  obtain rfl | rfl := hp <;> rfl

/-- The shortest NEW datagram and the longest one. -/
theorem datagramSteps_new_mem (dim : DimLevel) : 36 ≤ datagramSteps .new dim ∧ datagramSteps .new dim ≤ 40 := by
  by_cases hd : dim = 0
  · simp [datagramSteps_onOff hd]
  · simp [datagramSteps_dim hd]

/-- The shortest datagram and the longest one. -/
theorem datagramSteps_mem (p : Proto) (dim : DimLevel) : 15 ≤ datagramSteps p dim ∧ datagramSteps p dim ≤ 40 := by
  cases p with
  | new =>
    obtain ⟨hlo, hhi⟩ := datagramSteps_new_mem dim
    exact ⟨by omega, hhi⟩
  | old | cogex => simp [datagramSteps]

theorem stepsLeft_of_inDatagram {s : State} (h : inDatagram s.seq = true) : s.stepsLeft =
    4 + (s.work.repCnt - 1).toNat * datagramSteps s.work.proto s.work.dim + s.datagramStepsLeft := by
  cases hq : s.seq with
  | start | bits | dimBits | stop | gap => simp only [State.stepsLeft, hq]
  | _ => simp [hq, inDatagram] at h

/-- The datagrams left to send are one more than those after the next. -/
theorem toNat_eq_pred_add_one {n : Byte} (hn : n ≠ 0) : n.toNat = (n - 1).toNat + 1 := by
  bv_omega

/-- A row that neither begins a datagram nor ends one brings the end of the one under way one step nearer. -/
theorem Machine.SendRow.datagramStepsLeft {n : Nat} {s t : State} (h : SendRow n s t) (hs : inDatagram s.seq = true)
    (ht : inDatagram t.seq = true) : s.datagramStepsLeft = t.datagramStepsLeft + 1 := by
  cases h with
  | startNew hq hp =>
    obtain ⟨hlo, -⟩ := datagramSteps_new_mem s.work.dim
    simp only [State.datagramStepsLeft, hq, hp, if_true, State.pulsed_work, BitVec.reduceToNat]
    omega
  | startShort hq hp => simp [State.datagramStepsLeft, hq, datagramSteps_short hp, ne_new_of_short hp]
  | dimmer hq hp hi hd | newLastDim hq hp hi hd =>
    simp [State.datagramStepsLeft, hq, hp, hi, datagramSteps_dim hd]
  | newLastOnOff hq hp hi hd => simp [State.datagramStepsLeft, hq, hp, hi, datagramSteps_onOff hd]
  | newBit hq hp hi hd =>
    simp only [State.datagramStepsLeft, hq, hp, State.pulsed_work, if_true]
    bv_omega
  | shortBit hq hp hi =>
    simp only [State.datagramStepsLeft, hq, ne_new_of_short hp, State.pulsed_work, if_false]
    bv_omega
  | shortLast hq hp hi => simp [State.datagramStepsLeft, hq, ne_new_of_short hp, hi]
  | dimBit hq hi =>
    simp only [State.datagramStepsLeft, hq]
    bv_omega
  | dimLast hq hi => simp [State.datagramStepsLeft, hq, hi]
  | stop hq => simp [State.datagramStepsLeft, hq]
  | saveOpMode | saveModul | setModul | setOpMode | repeatEnd | gap | restOpMode | restModul | done => cases ht
  | repeatAgain hq => simp [hq, inDatagram] at hs

/-- Every row brings the end of the send one step nearer (R252). -/
theorem Machine.SendRow.stepsLeft {n : Nat} {s t : State} (h : SendRow n s t) : s.stepsLeft = t.stepsLeft + 1 := by
  have hdatagram := h.datagramStepsLeft
  cases h with
  | saveOpMode hq | saveModul hq | setModul hq | setOpMode hq =>
    simp only [State.stepsLeft, hq]
    omega
  | repeatEnd hq hn => simp [State.stepsLeft, hq, hn]
  | restOpMode hq | restModul hq | done hq => simp [State.stepsLeft, hq]
  | repeatAgain hq hn =>
    obtain ⟨hlo, -⟩ := datagramSteps_mem s.work.proto s.work.dim
    simp only [State.stepsLeft, State.datagramStepsLeft, hq, toNat_eq_pred_add_one hn, Nat.succ_mul]
    omega
  | gap hq hn => simp only [State.stepsLeft, State.datagramStepsLeft, hq, Nat.add_right_comm _ 1]
  | startNew hq | startShort hq | dimmer hq | newBit hq | newLastOnOff hq | newLastDim hq | shortBit hq | shortLast hq
  | dimBit hq | dimLast hq | stop hq =>
    have hs : inDatagram s.seq = true := by rw [hq]; rfl
    rw [stepsLeft_of_inDatagram hs, hdatagram hs rfl, stepsLeft_of_inDatagram rfl]
    rfl

theorem datagramStepsLeft_le (s : State) : s.datagramStepsLeft ≤ 40 := by
  have hi := s.work.bitIdx.isLt
  obtain ⟨-, hnew⟩ := datagramSteps_new_mem s.work.dim
  obtain ⟨-, hany⟩ := datagramSteps_mem s.work.proto s.work.dim
  cases hq : s.seq with
  | bits =>
    simp only [State.datagramStepsLeft, hq]
    split <;> omega
  | _ =>
    simp only [State.datagramStepsLeft, hq]
    omega

/-- The longest send: 255 NEW datagrams with a dim level (R252). -/
theorem Inv.stepsLeft_le {s : State} (hs : Inv s) : s.stepsLeft ≤ 10208 := by
  obtain ⟨-, hsteps⟩ := datagramSteps_mem s.work.proto s.work.dim
  cases hd : inDatagram s.seq with
  | true =>
    have hcount := toNat_eq_pred_add_one (hs.counted hd)
    have hothers : (s.work.repCnt - 1).toNat ≤ 254 := by omega
    have hloop := Nat.mul_le_mul hothers hsteps
    have hthis := datagramStepsLeft_le s
    rw [stepsLeft_of_inDatagram hd]
    omega
  | false =>
    have hall := Nat.mul_le_mul (Nat.le_of_lt_succ s.repeats.isLt) hsteps
    have hloop := Nat.mul_le_mul (Nat.le_of_lt_succ s.work.repCnt.isLt) hsteps
    cases hq : s.seq with
    | start | bits | dimBits | stop | gap => simp [hq, inDatagram] at hd
    | _ =>
      simp only [State.stepsLeft, hq]
      omega

/-- In every state that meets the invariant a send ends when its steps are made. -/
theorem Inv.runs_to_idle {s : State} (hs : Inv s) :
    ∃ u, runSteps s.stepsLeft s = .next u ∧ u.seq = .idle ∧ u.busy = false := by
  generalize hn : s.stepsLeft = n
  induction n generalizing s with
  | zero =>
    have hq : s.seq = .idle := stepsLeft_eq_zero.1 hn
    exact ⟨s, runSteps_zero s, hq, by simpa [hq] using hs.busyIffRunning⟩
  | succ n ih =>
    have hne : s.seq ≠ .idle := fun hq => by simp [stepsLeft_eq_zero.2 hq] at hn
    obtain ⟨m, t, hrow⟩ := hs.exists_row hne
    have hleft : t.stepsLeft = n := Nat.succ.inj (hrow.stepsLeft.symm.trans hn)
    obtain ⟨u, hrun, hu⟩ := ih (hrow.inv hs) hleft
    exact ⟨u, (runSteps_row (.emitting (hs.canEmit hne) hrow)).trans hrun, hu⟩

/-! ### The sequencer and its table -/

/-- Settles O30: with a pad and a period that can be keyed, the sequencer fires an enabled row. -/
theorem enabledTableRowFires : Obligations.EnabledTableRowFires := by
  intro n s t hpin hT h
  have he : CanEmit s := ⟨(pinValid_iff s).2 hpin, hT⟩
  exact (step_of_portClosed (portClosed_of_seq h.seq_ne_idle)).trans (fireRow_of_row (.emitting he h))

/-- Settles O31: during a send the port is closed, and the sequencer does nothing but fire rows. -/
theorem onlyTableRowsFire : Obligations.OnlyTableRowsFire := by
  intro s t hq h
  obtain ⟨n, hrow, -⟩ := fireRow_row hq ((step_of_portClosed (portClosed_of_seq hq)).symm.trans h)
  exact ⟨n, hrow⟩

/-- Settles O32: the state selects the row's number, and two firings are one step of the sequencer. -/
theorem exactlyOneRowIsEnabled : Obligations.ExactlyOneRowIsEnabled := by
  intro s hs hq
  have he := hs.canEmit hq
  obtain ⟨n, t, h⟩ := hs.exists_row hq
  refine ⟨n, t, h, fun m u h' => ⟨h'.eq_rowNumber.trans h.eq_rowNumber.symm, ?_⟩⟩
  have hu : fireRow s = .next u := fireRow_of_row (.emitting he h')
  have ht : fireRow s = .next t := fireRow_of_row (.emitting he h)
  exact Host.Outcome.next.inj (hu.symm.trans ht)

/-- Settles O45: acceptance, the guard around the repeat loop, and the end of the send. -/
theorem sequencerAgreesWithTheWholeCommand : Obligations.SequencerAgreesWithTheWholeCommand :=
  fun _ i ho => runSteps_offer_eq_bigStep ho i

/-- Settles O52: the steps left are few enough, and after them the block is idle. -/
theorem everySendReturnsToIdle : Obligations.EverySendReturnsToIdle := by
  intro s hs _
  obtain ⟨u, hrun, hu⟩ := hs.runs_to_idle
  exact ⟨s.stepsLeft, u, hs.stepsLeft_le.trans (by decide), hrun, hu⟩

/-! ### The idle block -/

/-- Settles O9: the open port takes the first move there is, and system start leaves the reset state. -/
theorem idleBlockTakesTheOutsideMove : Obligations.IdleBlockTakesTheOutsideMove := by
  intro s ho
  rw [step_of_portOpen ho]
  refine ⟨fun hi => ?_, fun rest hi => ?_, fun rest v hi => ?_, fun rest v hi => ?_⟩
  · rw [takeInput, hi]
  · exact ⟨systemStart { s with inputs := rest }, by rw [takeInput, hi], rfl, rfl, rfl, rfl,
      State.status_eq_zero rfl rfl rfl, rfl, fun _ => rfl, rfl, rfl, rfl, rfl⟩
  · rw [takeInput, hi]; rfl
  · rw [takeInput, hi]; rfl

end Sys2Proof

/-! # Validation errors and faults

What a send reports is its `commandFault`, and which fault that is depends on the legal ranges of R269 alone, but for the
period. -/

namespace Sys2Proof

open Machine

/-! ### The report of a send -/

/-- The acceptance of a send on a pad that exists reports what its validation finds, or nothing (R42, R271). -/
theorem beginSend_reports (p : Proto) (fields : Option Cause) (frame : Frame) (dim : DimLevel) {s : State}
    (hp : s.pin.toNat < s.platform.nPins) :
    ∃ t, beginSend p fields frame dim s = .next t ∧
      t.err = (sendFault fields s).isSome ∧ t.cause = (sendFault fields s).getD .noFault := by
  cases hf : sendFault fields s with
  | some c => exact ⟨raise c s, beginSend_raised hp hf, rfl, rfl⟩
  | none =>
    obtain ⟨hfields, hT⟩ := sendFault_eq_none.1 hf
    exact ⟨acceptSend p frame dim s, beginSend_accepted frame dim hp hfields hT, rfl, rfl⟩

theorem exec_send_reports {i : Instr} {s : State} (hs : isSend i = true) (hp : s.pin.toNat < s.platform.nPins) :
    ∃ t, exec i s = .next t ∧ t.err = (commandFault i s).isSome ∧ t.cause = (commandFault i s).getD .noFault := by
  cases i with
  | setPin | setTiming => cases hs
  | sendNew | sendOld | sendCogex => exact beginSend_reports _ _ _ _ hp

/-! ### Fields in their ranges -/

theorem sendFault_none_cases (s : State) : sendFault none s = none ∨ sendFault none s = some .timing :=
  (ite_eq_or_eq ..).symm

/-- With legal fields only the period can be at fault (R269, R270). -/
theorem commandFault_of_wellFormed {i : Instr} (s : State) (hi : i.wellFormed) :
    commandFault i s = none ∨ commandFault i s = some .timing := by
  cases i with
  | setPin | setTiming => exact .inl rfl
  | sendNew => rw [commandFault, newFieldFault_eq_none hi]; exact sendFault_none_cases s
  | sendOld => rw [commandFault, oldFieldFault_eq_none hi]; exact sendFault_none_cases s
  | sendCogex => rw [commandFault, cogexFieldFault_eq_none hi]; exact sendFault_none_cases s

/-! ### A field outside its range -/

/-- The causes of `ValidationError` (R266 to R268). -/
def IsValidationCause (c : Cause) : Prop := c = .address ∨ c = .unit ∨ c = .dim

theorem newFieldFault_of_not_wellFormed {addr : BitVec 32} {unit : Byte} {on group : Bool} {dim : Byte}
    (hi : ¬(Instr.sendNew addr unit on group dim).wellFormed) :
    ∃ c, newFieldFault addr unit group dim = some c ∧ IsValidationCause c := by
  rcases Nat.lt_or_ge addr.toNat (2 ^ 26) with ha | ha
  · by_cases hu : group = false ∧ 15 < unit.toNat
    · exact ⟨.unit, newFieldFault_unit ha hu.1 hu.2, .inr (.inl rfl)⟩
    · have hunit : group = false → unit.toNat ≤ 15 := fun hg => Nat.not_lt.1 fun hlt => hu ⟨hg, hlt⟩
      have hok : group = true ∨ unit.toNat ≤ 15 := (Bool.eq_false_or_eq_true group).imp_right hunit
      have hd : 15 < dim.toNat := Nat.not_le.1 fun hle => hi ⟨by omega, hunit, hle⟩
      exact ⟨.dim, (newFieldFault_of_unit_ok ha hok).trans (if_pos hd), .inr (.inr rfl)⟩
  · exact ⟨.address, newFieldFault_address ha, .inl rfl⟩

theorem oldFieldFault_of_not_wellFormed {house unit : Byte} {on : Bool}
    (hi : ¬(Instr.sendOld house unit on).wellFormed) :
    ∃ c, oldFieldFault house unit = some c ∧ IsValidationCause c := by
  by_cases hh : 65 ≤ house.toNat ∧ house.toNat ≤ 80
  · have hu : unit.toNat < 1 ∨ 16 < unit.toNat := by
      by_contra hu
      exact hi ⟨hh, by omega⟩
    exact ⟨.unit, (oldFieldFault_of_house_ok hh.1 hh.2).trans (if_pos hu), .inr (.inl rfl)⟩
  · exact ⟨.address, oldFieldFault_address (by omega), .inl rfl⟩

theorem cogexFieldFault_of_not_wellFormed {house unit : Byte} {on : Bool}
    (hi : ¬(Instr.sendCogex house unit on).wellFormed) :
    ∃ c, cogexFieldFault house unit = some c ∧ IsValidationCause c := by
  by_cases hh : 1 ≤ house.toNat ∧ house.toNat ≤ 15
  · have hu : unit.toNat < 1 ∨ 15 < unit.toNat := by
      by_contra hu
      exact hi ⟨hh, by omega⟩
    exact ⟨.unit, (cogexFieldFault_of_house_ok hh.1 hh.2).trans (if_pos hu), .inr (.inl rfl)⟩
  · exact ⟨.address, cogexFieldFault_address (by omega), .inl rfl⟩

/-- A failing field is reported before the period is looked at (R273). -/
theorem sendFault_of_fields {fields : Option Cause} (s : State)
    (h : ∃ c, fields = some c ∧ IsValidationCause c) : ∃ c, sendFault fields s = some c ∧ IsValidationCause c := by
  obtain ⟨c, rfl, hc⟩ := h
  exact ⟨c, rfl, hc⟩

theorem commandFault_of_not_wellFormed {i : Instr} (s : State) (hi : ¬i.wellFormed) :
    ∃ c, commandFault i s = some c ∧ IsValidationCause c := by
  cases i with
  | setPin | setTiming => exact absurd trivial hi
  | sendNew => exact sendFault_of_fields s (newFieldFault_of_not_wellFormed hi)
  | sendOld => exact sendFault_of_fields s (oldFieldFault_of_not_wellFormed hi)
  | sendCogex => exact sendFault_of_fields s (cogexFieldFault_of_not_wellFormed hi)

/-- Settles O17: a send reports its `commandFault`, which the legal ranges of R269 decide. -/
theorem validationErrorExactlyOutsideTheLegalRanges : Obligations.ValidationErrorExactlyOutsideTheLegalRanges := by
  intro s i hs hp
  obtain ⟨t, hexec, herr, hcause⟩ := exec_send_reports hs hp
  refine ⟨t, hexec, fun hi => ?_, fun hi => ?_⟩
  · obtain hf | hf := commandFault_of_wellFormed s hi
    · exact .inl (by rw [hcause, hf, Option.getD_none])
    · exact .inr (by rw [hcause, hf, Option.getD_some])
  · obtain ⟨c, hf, hc⟩ := commandFault_of_not_wellFormed s hi
    rw [hf] at herr hcause
    exact ⟨herr, hcause ▸ hc⟩

/-! ### What a fault leaves alone -/

/-- Settles O18: of what an accepted word can leave, only a fault report has `ERR` set. -/
theorem faultChangesOnlyTheReport : Obligations.FaultChangesOnlyTheReport := by
  intro s t w h herr
  cases wordOutcome_of_acceptWord h with
  | reported c hc => exact ⟨hc, rfl⟩
  | pinSelected | timingSet | sendAccepted => cases herr

/-! ### The inter-repeat delay -/

/-- Settles O59: at `GAP` the sequencer fires row 19, whose one event is the delay. -/
theorem interRepeatDelayIsRdelayMilliseconds : Obligations.InterRepeatDelayIsRdelayMilliseconds := by
  intro s hq hn
  have hc : portOpen s = false := portClosed_of_seq (by simp [hq])
  have hrow := fireRow_of_row (.silent (by decide) (.gap hq hn))
  refine ⟨_, (step_of_portClosed hc).trans hrow, Nat.le_of_lt_succ s.rdelay.isLt, rfl, ?_, rfl⟩
  rw [requestedUs_append, requestedUs_cons, nominalUs_delayMs, requestedUs_nil, Nat.add_zero]

end Sys2Proof

/-! # The requested time of a whole send

Only the guard touches the radio's registers, and only the datagrams and the delays between them take time; both are read
off `sendEvents`, given the requested time of the datagram. -/

namespace Sys2Proof

open Machine

/-! ### The register transactions of a send -/

/-- Datagrams emit pad events and delays only (R210). -/
theorem isRadioEvent_datagramEvents (proto : Proto) (p T : Nat) (frame : Frame) (dim : DimLevel) :
    ∀ e ∈ datagramEvents proto p T frame dim, isRadioEvent e = false := by
  obtain ⟨ds, -, hdg⟩ := datagramEvents_eq_pulseTrain proto p T frame dim
  rw [hdg, pulseTrain, List.forall_mem_flatMap]
  exact fun d _ => isRadioEvent_pulseEvents p T d

/-- Beside the datagrams the repeated part has the inter-repeat delays alone. -/
theorem isRadioEvent_bodyEvents (s : State) {dg : List Event} (h : ∀ e ∈ dg, isRadioEvent e = false) :
    ∀ e ∈ bodyEvents s dg, isRadioEvent e = false := by
  intro e he
  obtain ⟨es, hes, hmem⟩ := List.mem_flatten.1 he
  rw [List.eq_of_mem_replicate hes] at hmem
  obtain hdg | hdelay := List.mem_append.1 hmem
  · exact h e hdg
  · rw [List.mem_singleton.1 hdelay]; rfl

/-- The register transactions of a send are the guard's (R201 to R203). -/
theorem filter_isRadioEvent_sendEvents (s : State) {dg : List Event} (h : ∀ e ∈ dg, isRadioEvent e = false) :
    (sendEvents s dg).filter isRadioEvent = guardEnterEvents s ++ guardExitEvents s := by
  have hbody : (bodyEvents s dg).filter isRadioEvent = [] :=
    List.filter_eq_nil_iff.2 fun e he => Bool.eq_false_iff.1 (isRadioEvent_bodyEvents s h e he)
  have henter : (guardEnterEvents s).filter isRadioEvent = guardEnterEvents s := rfl
  have hexit : (guardExitEvents s).filter isRadioEvent = guardExitEvents s := rfl
  rw [sendEvents, List.filter_append, List.filter_append, hbody, henter, hexit, List.append_nil]

/-! ### The requested time of a send -/

/-- The guard asks for no time; each repetition asks for its datagram and one delay (R287, R322). -/
theorem requestedUs_sendEvents (s : State) (dg : List Event) :
    requestedUs (sendEvents s dg) = s.repeats.toNat * (requestedUs dg + 1000 * s.rdelay.toNat) := by
  have henter : requestedUs (guardEnterEvents s) = 0 := rfl
  have hexit : requestedUs (guardExitEvents s) = 0 := rfl
  have hdelay : requestedUs [.delayMs s.rdelay.toNat] = 1000 * s.rdelay.toNat := rfl
  rw [sendEvents, requestedUs_append, requestedUs_append, henter, hexit, bodyEvents, requestedUs_replicate,
    requestedUs_append, hdelay, Nat.zero_add, Nat.add_zero]

/-! ### The datagram of a send -/

theorem wholeSend_performed {fields : Option Cause} (dg : List Event) {s : State} (hp : s.pinValid = true)
    (hf : sendFault fields s = none) : wholeSend fields dg s = .next (afterSend s dg) := by
  rw [wholeSend, if_pos hp, hf]

/-- A send that passes validation sends a datagram of its protocol, whose requested time is the `D` of R322. -/
theorem bigStep_performed_datagram {i : Instr} {s : State} (hs : isSend i = true) (hp : s.pinValid = true)
    (hf : commandFault i s = none) (hT : 150 < s.period.toNat) :
    ∃ proto frame dim,
      bigStep i s = .next (afterSend s (datagramEvents proto s.pin.toNat s.period.toNat frame dim)) ∧
      requestedUs (datagramEvents proto s.pin.toNat s.period.toNat frame dim) = datagramUs s.period.toNat i := by
  cases i with
  | setPin | setTiming => cases hs
  | sendNew addr unit on group dim =>
    exact ⟨.new, newFrame addr unit on group, newDim on dim, wholeSend_performed _ hp hf,
      requestedUs_newDatagramEvents _ hT _ _⟩
  | sendOld house unit on =>
    exact ⟨.old, oldFrame s.platform house unit on, 0, wholeSend_performed _ hp hf,
      requestedUs_oldDatagramEvents _ hT _⟩
  | sendCogex house unit on =>
    exact ⟨.cogex, cogexFrame s.platform house unit on, 0, wholeSend_performed _ hp hf,
      requestedUs_oldDatagramEvents _ hT _⟩

/-- Settles O58: by R254 the run is the whole send, which adds `sendEvents` of its datagram to the trace. -/
theorem sendRequestsItsDatagramsAndDelays : Obligations.SendRequestsItsDatagramsAndDelays := by
  intro s i ho hs hi hp hT
  obtain ⟨proto, frame, dim, hbig, hus⟩ :=
    bigStep_performed_datagram hs ((pinValid_iff s).2 hp) (commandFault_eq_none hi hT) hT
  refine ⟨_, _, (runSteps_offer_eq_bigStep ho i).trans hbig, hbig, rfl, ?_, ?_⟩
  · rw [filter_isRadioEvent_sendEvents s (isRadioEvent_datagramEvents _ _ _ _ _)]; rfl
  · rw [requestedUs_sendEvents, hus]

end Sys2Proof
